-- ==== Sys2Proof/Word.lean ====
section
/-! DEFINITION. The fixed widths of the DES cipher core (spec/00_scope.md R5, R6, R7): one name for each
width the spec gives a value of. Every value is unsigned (R7), and no operation of the core is signed. -/

namespace Sys2Proof

/-- One host-visible register, and one half of a 64-bit operand: 32 bits (R6 REG_BITS, R5 HALF_BITS). -/
abbrev Word := BitVec 32

/-- A block, a key, or a whole 64-bit operand register (R5 BLOCK_BITS, KEY_BITS). -/
abbrev Block := BitVec 64

/-- One of the two 28-bit halves `C`, `D` of the key core (R5 KEYHALF_BITS). -/
abbrev KeyHalf := BitVec 28

/-- The pair `C ‖ D`, the 56-bit effective key (R5 EFFECTIVE_KEY_BITS). -/
abbrev KeyPair := BitVec 56

/-- A round key, and the expanded right half (R5 ROUNDKEY_BITS). -/
abbrev RoundKey := BitVec 48

end Sys2Proof
end

