-- ==== Sys2Proof/Config.lean ====
section
/-! DEFINITION. What the spec leaves to the platform (spec/92_eei_decisions.md, the four OPEN parameters;
spec/00_scope.md R6), and the one value it leaves unsaid about a host program. Each is an uninterpreted
constant: it has no body, so no proof can rest on a value of it (DEDUCED, notes/assumptions/14).

The tables, the shift schedule and the S-boxes are constants of the model too (R20, R34). The spec gives
their values, so they are not open: they stand in Sys2Proof/Machine/Tables.lean. -/

namespace Sys2Proof.Config

/-- `BASE`: the platform address of window offset 0 (R6, D2). Nothing in the core depends on it. -/
opaque base : Nat

/-- `BUS_ERROR_RESPONSE`: what the bus returns to a host for an access of this offset and width that the
core does not accept (R6, R44, D4). The model faults with `BUS_FAULT` instead, so nothing reads it. -/
opaque busErrorResponse (offset : Int) (width : Nat) : Word

/-- `CMD_LATENCY`: the clocks from launch to completion, for information only (R6, R209, D20). The model
has no time. How many host accesses fall between a launch and its completion is data: `State.sched`. -/
opaque cmdLatency : Nat

/-- `INSTANCES`: the number of core instances of the platform (R6, R193, D21). -/
opaque instances : Nat

/-- A FREE VALUE: what a host variable holds before the host program sets it
(spec/95_test_vectors.md L3: "Host variables undefined"). DESIGN CHOICE, notes/assumptions/9. -/
opaque unsetVar (x : Nat) : Word

end Sys2Proof.Config
end

