-- ==== Sys2Proof/Syntax.lean ====
section
/-! DEFINITION. Syntax: the commands of spec/opcode_table.json, one constructor a row; the registers of
the window; the host's accesses; the statements of a host program; and the turns of the machine's agents. -/

namespace Sys2Proof

/-- A command (spec/30_encoding.md R71, R78): one constructor for each row of spec/opcode_table.json.
`j` is the manual's S-box number 1..8 and `r` its round number 1..16 (R72); WellFormed.lean checks them. -/
inductive Instr
  /-- `NOP` = 0x00 (R168). -/
  | nop
  /-- `ENC` = 0x10 (R166). -/
  | enc
  /-- `DEC` = 0x20 (R167). -/
  | dec
  /-- `PERM.IP` = 0x30 (R101). -/
  | permIP
  /-- `PERM.FP` = 0x31 (R101). -/
  | permFP
  /-- `PERM.PC1` = 0x32 (R101). -/
  | permPC1
  /-- `PERM.PC2` = 0x33 (R101). -/
  | permPC2
  /-- `PERM.E` = 0x34 (R101). -/
  | permE
  /-- `PERM.P` = 0x35 (R101). -/
  | permP
  /-- `SBOX.S<j>` = 0x40 + (j-1) (R147). -/
  | sbox (j : Nat)
  /-- `RND.<r>` = 0x50 + (r-1) (R148). -/
  | rnd (r : Nat)
  /-- `RKEY.<r>` = 0x60 + (r-1) (R123). -/
  | rkey (r : Nat)
  /-- `KSCD.<r>` = 0x70 + (r-1) (R122). -/
  | kscd (r : Nat)
  /-- `PARITY` = 0x80 (R121). -/
  | parity
  deriving DecidableEq, Repr

/-- The six 32-bit data halves (spec/10_state.md R21 to R23). -/
inductive HalfId
  | keyHi | keyLo | dinHi | dinLo | doutHi | doutLo
  deriving DecidableEq, Repr

/-- The eight registers of the window (spec/20_memory.md R41). -/
inductive Reg
  /-- `KEY_HI`, `KEY_LO`, `DIN_HI`, `DIN_LO`, `DOUT_HI`, `DOUT_LO`. -/
  | data (h : HalfId)
  /-- `CMD`: write-only, reads 0 (R30). -/
  | cmd
  /-- `STATUS` (R26). -/
  | status
  deriving DecidableEq, Repr

/-- One operation of a host at the window (R44). `off` is an offset from `BASE`, negative below it;
`width` is in bytes. -/
inductive HostOp
  /-- `MemRead(off, width)`. -/
  | read (off : Int) (width : Nat)
  /-- `MemWrite(off, width, v)`. Only a 4-byte access is admitted, so 32 bits of data are enough
  (DEDUCED, notes/assumptions/12). -/
  | write (off : Int) (width : Nat) (v : Word)
  /-- Anything that is neither a read nor a write (R44, U3). -/
  | other
  deriving DecidableEq, Repr

/-- A host variable's name (R77: "The host keeps named 32-bit variables"). Names are numbers here
(DESIGN CHOICE, notes/assumptions/11). -/
abbrev Var := Nat

/-- A label's name (R77: `label:` names the next statement). -/
abbrev Label := Nat

/-- The statements of a host program (spec/30_encoding.md R77). -/
inductive Stmt
  /-- `wr REG, imm32`. -/
  | wr (reg : Reg) (imm : Word)
  /-- `wr REG, var`. -/
  | wrVar (reg : Reg) (x : Var)
  /-- `rd var, REG`. -/
  | rd (x : Var) (reg : Reg)
  /-- `jb var, bit, label`. -/
  | jb (x : Var) (bit : Nat) (l : Label)
  /-- `jnb var, bit, label`. -/
  | jnb (x : Var) (bit : Nat) (l : Label)
  /-- `set var, imm32`. -/
  | set (x : Var) (imm : Word)
  /-- `xor var, var2`. -/
  | xor (x y : Var)
  /-- `add var, imm32`. -/
  | add (x : Var) (imm : Word)
  /-- `jne var, imm32, label`. -/
  | jne (x : Var) (imm : Word) (l : Label)
  /-- `halt`. -/
  | halt
  deriving DecidableEq, Repr

/-- One line of a host program: the labels that name its statement, and the statement (R77). -/
structure Line where
  labels : List Label
  stmt   : Stmt
  deriving DecidableEq, Repr

/-- One event of the single total order of R58: whose move is next. -/
inductive Turn
  /-- The host runs the next statement of its program (R77). -/
  | program
  /-- An access of a host arrives at the port; it may come from any host (R58, U14). -/
  | access (op : HostOp)
  /-- The core takes its completion step, if it is enabled (R80). -/
  | core
  /-- The platform resets the core (R200). -/
  | reset
  deriving DecidableEq, Repr

end Sys2Proof
end

