-- ==== Sys2Proof/WellFormed.lean ====
section
/-! DEFINITION. Which terms of Syntax.lean the spec has: the operand ranges of a command
(spec/30_encoding.md R72) and what a host program may say (R77). The legality of a 32-bit command word (R73)
is Decode.lean's `legal`, and the admission of a host access (R44) is Ops.lean's `admitted`. -/

namespace Sys2Proof

/-- The command's operand is one the spec gives it: `j` in 1..8 for SBOX, `r` in 1..16 for RND, RKEY and
KSCD (R72). -/
def Instr.wellFormed : Instr → Bool
  | .sbox j => 1 ≤ j && j ≤ 8
  | .rnd r | .rkey r | .kscd r => 1 ≤ r && r ≤ 16
  | .nop | .enc | .dec | .permIP | .permFP | .permPC1 | .permPC2 | .permE | .permP | .parity => true

/-- A statement's own operands: a bit number is one of a 32-bit variable's, and a label names a statement
of the program whose labels are `ls` (R77). -/
def Stmt.wellFormed (ls : List Label) : Stmt → Bool
  | .jb _ bit l | .jnb _ bit l => bit < 32 && ls.contains l
  | .jne _ _ l => ls.contains l
  | .wr _ _ | .wrVar _ _ | .rd _ _ | .set _ _ | .xor _ _ | .add _ _ | .halt => true

/-- The labels a program defines, in order. -/
def programLabels (p : List Line) : List Label := p.flatMap (·.labels)

/-- A host program is well formed when every statement is and no label names two statements. -/
def programWellFormed (p : List Line) : Bool :=
  p.all (fun ln => ln.stmt.wellFormed (programLabels p)) && (programLabels p).Nodup

end Sys2Proof
end

