-- ==== Sys2Proof/Decode.lean ====
section
/-! DEFINITION. The command word (spec/30_encoding.md R70 to R75): its fields, which words are legal, the
decoder, and after it the encoder, written from R72 and R78. A command is exactly one 32-bit word written
with one access (R75), so there are no bytes to order (R43) and no length to find. -/

namespace Sys2Proof

/-- `RES`, bits 31:8 (R70). -/
def resField (w : Word) : BitVec 24 := w.extractLsb' 8 24

/-- `OP`, bits 7:4 (R70). -/
def opField (w : Word) : BitVec 4 := w.extractLsb' 4 4

/-- `SEL`, bits 3:0 (R70). -/
def selField (w : Word) : BitVec 4 := w.extractLsb' 0 4

/-- `legal(w)`, R73 as it stands. -/
def legal (w : Word) : Bool :=
  resField w == 0#24 &&
    (opField w == 0x0#4 && selField w == 0#4
      || opField w == 0x1#4 && selField w == 0#4
      || opField w == 0x2#4 && selField w == 0#4
      || opField w == 0x3#4 && decide (selField w ≤ 5#4)
      || opField w == 0x4#4 && decide (selField w ≤ 7#4)
      || opField w == 0x5#4
      || opField w == 0x6#4
      || opField w == 0x7#4
      || opField w == 0x8#4 && selField w == 0#4)

/-- The command that `(OP, SEL)` names (R71, R72), or none: the pair is reserved or illegal (R74). -/
def decodeFields (op sel : BitVec 4) : Option Instr :=
  match op.toNat with
  | 0x0 => if sel.toNat = 0 then some .nop else none
  | 0x1 => if sel.toNat = 0 then some .enc else none
  | 0x2 => if sel.toNat = 0 then some .dec else none
  | 0x3 =>
    match sel.toNat with
    | 0 => some .permIP
    | 1 => some .permFP
    | 2 => some .permPC1
    | 3 => some .permPC2
    | 4 => some .permE
    | 5 => some .permP
    | _ => none
  | 0x4 => if sel.toNat ≤ 7 then some (.sbox (sel.toNat + 1)) else none
  | 0x5 => some (.rnd (sel.toNat + 1))
  | 0x6 => some (.rkey (sel.toNat + 1))
  | 0x7 => some (.kscd (sel.toNat + 1))
  | 0x8 => if sel.toNat = 0 then some .parity else none
  | _ => none

/-- The command a word is, or none where the word is illegal (R74): a nonzero `RES` is. -/
def decode (w : Word) : Option Instr :=
  if resField w = 0#24 then decodeFields (opField w) (selField w) else none

/-- `OP` of a command (R71). -/
def Instr.op : Instr → BitVec 4
  | .nop => 0x0
  | .enc => 0x1
  | .dec => 0x2
  | .permIP | .permFP | .permPC1 | .permPC2 | .permE | .permP => 0x3
  | .sbox _ => 0x4
  | .rnd _ => 0x5
  | .rkey _ => 0x6
  | .kscd _ => 0x7
  | .parity => 0x8

/-- `SEL` of a command (R72): the table's number, `j - 1`, `r - 1`, or 0. -/
def Instr.sel : Instr → BitVec 4
  | .nop | .enc | .dec | .parity => 0
  | .permIP => 0
  | .permFP => 1
  | .permPC1 => 2
  | .permPC2 => 3
  | .permE => 4
  | .permP => 5
  | .sbox j => BitVec.ofNat 4 (j - 1)
  | .rnd r | .rkey r | .kscd r => BitVec.ofNat 4 (r - 1)

/-- The word of a command: `RES = 0`, `OP`, `SEL` (R70). -/
def encode (i : Instr) : Word := 0#24 ++ i.op ++ i.sel

/-- The command the decoder reads from an instruction whose bits are `w`, numbered as
spec/opcode_table.json numbers them; `nbits` is how many of them the table gives. The instruction is one
32-bit word, whose bit `b` is bit `b` of the data written to `CMD` (R43; DEDUCED, notes/assumptions/13). -/
def decodeTableWord (nbits w : Nat) : Option Instr := decode (BitVec.ofNat 32 (w % 2 ^ nbits))

end Sys2Proof
end

