-- ==== Sys2Proof/Machine/State.lean ====
section
/-! DEFINITION. The state of the machine, as plain data (spec/10_state.md R20), the reasons a step can stop
(spec/60_exceptions.md R188), and the state after reset (R35). -/

namespace Sys2Proof.Machine

/-- The model faults of R188. They are outcomes of the model, apart from the hardware's own errors, which
are ordinary state in `STATUS`. -/
inductive Fault
  /-- `BUS_FAULT`: raised by `memRead` and `memWrite` for an access that R44 does not admit. Safe: the model
  stops where the platform's bus answers something the spec leaves open. -/
  | busFault
  /-- `UNWRITTEN_READ`: raised by a host read of an unwritten data half (R46, R47) and by a completion that
  consumes one (R80). Safe: the model stops where the hardware uses an unspecified value. -/
  | unwrittenRead
  /-- `TABLE_RANGE`: raised by `permute` with a table entry outside `1..n` (R91). Exact: no table of the
  hardware reaches it (R98). -/
  | tableRange
  deriving DecidableEq, Repr

/-- The inputs and terms that have no meaning (R11). -/
inductive Refusal
  /-- Raised by no arm of `exec` any more: a command whose meaning is not written. Safe. -/
  | notModelled (mnemonic : String)
  /-- Raised by the meanings of SBOX, RND, RKEY and KSCD for an operand outside the spec's range, which no
  command word encodes (R72, R74). Safe: `decode` gives no such term. -/
  | illFormedOperand
  /-- Raised by an access that is neither a read nor a write (R44, U3). Safe: the spec refuses it. -/
  | notAHostAccess
  /-- Raised by the completion step when `PENDING` names no command. Safe: no run reaches it, since only a
  legal word is ever launched (R52). -/
  | pendingNotACommand
  /-- Raised by a host program's jump to a label that names no statement (R77). Safe: such a program is not
  well formed. -/
  | noSuchLabel
  deriving DecidableEq, Repr

/-- A 32-bit data half with its written mark (R20, R24; DEDUCED, notes/assumptions/8). -/
structure DataHalf where
  val     : Word
  written : Bool
  deriving DecidableEq, Repr

/-- `PENDING`: the fields of the launched command (R31). -/
structure Pending where
  op  : BitVec 4
  sel : BitVec 4
  deriving DecidableEq, Repr

/-- The set of fault reasons recorded so far (R20, R188), one flag for each reason. -/
structure FaultSet where
  busFault      : Bool
  unwrittenRead : Bool
  tableRange    : Bool
  deriving DecidableEq, Repr

/-- The host agent and its program (R20, R77). -/
structure HostAgent where
  /-- The statements, in order. -/
  prog  : List Line
  /-- The host's own program counter (R25): the index of the next statement. -/
  pc    : Nat
  /-- The variables set so far, by rising name. -/
  vars  : List (Var × Word)
  /-- `halt` has been executed. -/
  ended : Bool
  deriving DecidableEq, Repr

/-- The whole state (R20): the six data halves, the fields of `STATUS`, `PENDING` and the fault set are
the core's; then come the host agent, the values hosts have read so far (R210), and the turns still to
come in the total order of R58 (DESIGN CHOICE, notes/assumptions/4). -/
structure State where
  keyHi   : DataHalf
  keyLo   : DataHalf
  dinHi   : DataHalf
  dinLo   : DataHalf
  doutHi  : DataHalf
  doutLo  : DataHalf
  busy    : Bool
  done    : Bool
  err     : Bool
  errcode : BitVec 4
  pending : Pending
  faults  : FaultSet
  host    : HostAgent
  reads   : List Word
  sched   : List Turn
  deriving DecidableEq, Repr

/-- An unwritten half (R35). Its value is the model's own (DESIGN CHOICE, notes/assumptions/1). -/
def DataHalf.unwritten : DataHalf := { val := 0, written := false }

/-- No fault recorded: how a run starts (R35). -/
def FaultSet.empty : FaultSet := { busFault := false, unwrittenRead := false, tableRange := false }

/-- A host with no program, before one is loaded (notes/assumptions/3). -/
def HostAgent.idle : HostAgent := { prog := [], pc := 0, vars := [], ended := false }

/-- The machine right after reset, at the start of a run (R35, R202). -/
def State.reset : State where
  keyHi := .unwritten
  keyLo := .unwritten
  dinHi := .unwritten
  dinLo := .unwritten
  doutHi := .unwritten
  doutLo := .unwritten
  busy := false
  done := false
  err := false
  errcode := 0
  pending := { op := 0, sel := 0 }
  faults := .empty
  host := .idle
  reads := []
  sched := []

end Sys2Proof.Machine
end

