-- ==== Sys2Proof/Machine/Flags.lean ====
section
/-! DEFINITION. The flags of `STATUS` (spec/10_state.md R26 to R29): the word a host reads, and the
transitions of `BUSY`, `DONE`, `ERR` and `ERRCODE`. Which event makes which transition is said in Ops.lean. -/

namespace Sys2Proof.Machine

/-- The error codes of `STATUS.ERRCODE` (spec/60_exceptions.md R182). `TABLE_RANGE` (3) and the codes
4..15 are never raised by this hardware. -/
inductive ErrorCode
  /-- Code 1: an illegal or reserved command word. -/
  | illegalCmd
  /-- Code 2: a write the pending command forbids. -/
  | busyWrite
  deriving DecidableEq, Repr

/-- The number `STATUS.ERRCODE` shows (R182). -/
def errorNumber : ErrorCode → BitVec 4
  | .illegalCmd => 1
  | .busyWrite => 2

/-- The word `MemRead(0x1C, 4)` returns (R49): `zext_32(ERRCODE ‖ 0b0 ‖ ERR ‖ DONE ‖ BUSY)`. -/
def statusWord (s : State) : Word :=
  (s.errcode ++ 0#1 ++ BitVec.ofBool s.err ++ BitVec.ofBool s.done ++ BitVec.ofBool s.busy).setWidth 32

/-- Completion's flags (R80): `BUSY <- 0`, `DONE <- 1`. -/
def setCompleted (s : State) : State := { s with busy := false, done := true }

/-- Every `CMD` write while idle clears `DONE` (R28). -/
def clearDone (s : State) : State := { s with done := false }

/-- An accepted launch (R27, R31): `PENDING <- (OP, SEL)`, `BUSY <- 1`. -/
def setLaunched (op sel : BitVec 4) (s : State) : State :=
  { s with pending := { op := op, sel := sel }, busy := true }

/-- `raise Error(code)`'s record (R181): the code is kept only if `ERR` was 0. -/
def recordError (code : ErrorCode) (s : State) : State :=
  { s with err := true, errcode := if s.err then s.errcode else errorNumber code }

/-- The write-1-to-clear of `ERR`, which clears `ERRCODE` with it (R29, R53). -/
def clearErrorFlags (s : State) : State := { s with err := false, errcode := 0 }

end Sys2Proof.Machine
end

