-- ==== Sys2Proof/Machine/Operands.lean ====
section
/-! DEFINITION. Operands: DES positions (spec/00_scope.md R8), the permutation engine that gathers by them
(spec/40_permutation.md R90, R91), the 64-bit operands made of two halves (spec/20_memory.md R42), and which
halves each command consumes (spec/30_encoding.md R76). -/

namespace Sys2Proof.Machine

/-- DES position `v<k>`, for `k` in 1..n (R8): position 1 is the most significant bit. -/
def desBit {n : Nat} (v : BitVec n) (k : Nat) : Bool := v.getLsbD (n - k)

/-- The number whose binary digits are the bits of `v` at the positions `T` names, first position first,
under the digits of `acc`. -/
def gatherNat {n : Nat} (v : BitVec n) : List Nat → Nat → Nat
  | [], acc => acc
  | k :: T, acc => gatherNat v T (2 * acc + (desBit v k).toNat)

/-- The gather of R90 for a table of length `m`: `out<i> <- v<T[i]>`. It means something only for a table
in range, which every table of the hardware is (R98). -/
def gather {n : Nat} (m : Nat) (T : List Nat) (v : BitVec n) : BitVec m := BitVec.ofNat m (gatherNat v T 0)

/-- The range precondition of R91: `1 <= T[i] <= n` for every entry. -/
def tableInRange (n : Nat) (T : List Nat) : Bool := T.all fun k => 1 ≤ k && k ≤ n

/-- The permutation engine over any table (R90, R91): the gather, or the fault `TABLE_RANGE` and no
output. -/
def permute {n : Nat} (m : Nat) (T : List Nat) (v : BitVec n) : Except Fault (BitVec m) :=
  if tableInRange n T then .ok (gather m T v) else .error .tableRange

/-- The number of 1 bits (R9). -/
def popcount {n : Nat} (v : BitVec n) : Nat := (List.range n).countP fun i => v.getLsbD i

/-- `rotl_28(x, s)` (R9). -/
def rotl28 (x : KeyHalf) (s : Nat) : KeyHalf := (x <<< s) ||| (x >>> (28 - s))

/-- The high 32 bits of a 64-bit value: `Left`, positions 1..32 (R161). -/
def leftHalf (b : Block) : Word := b.extractLsb' 32 32

/-- The low 32 bits of a 64-bit value: `Right`, positions 33..64 (R161). -/
def rightHalf (b : Block) : Word := b.extractLsb' 0 32

/-- The data half of a name. -/
def State.half (s : State) : HalfId → DataHalf
  | .keyHi => s.keyHi
  | .keyLo => s.keyLo
  | .dinHi => s.dinHi
  | .dinLo => s.dinLo
  | .doutHi => s.doutHi
  | .doutLo => s.doutLo

/-- `KEY = KEY_HI ‖ KEY_LO` (R21). -/
def State.key (s : State) : Block := s.keyHi.val ++ s.keyLo.val

/-- `DIN = DIN_HI ‖ DIN_LO` (R22). -/
def State.din (s : State) : Block := s.dinHi.val ++ s.dinLo.val

/-- `DOUT = DOUT_HI ‖ DOUT_LO` (R23). -/
def State.dout (s : State) : Block := s.doutHi.val ++ s.doutLo.val

/-- The halves a command consumes (R76's table). -/
def consumed : Instr → List HalfId
  | .nop => []
  | .enc | .dec | .rnd _ => [.keyHi, .keyLo, .dinHi, .dinLo]
  | .permIP | .permFP | .permPC1 | .permPC2 | .parity => [.dinHi, .dinLo]
  | .permE | .permP | .sbox _ => [.dinLo]
  | .rkey _ | .kscd _ => [.keyHi, .keyLo]

/-- Every half of the list carries the mark `written` (R24). -/
def State.allWritten (s : State) (hs : List HalfId) : Bool := hs.all fun h => (s.half h).written

end Sys2Proof.Machine
end

