-- ==== Sys2Proof/Machine/Ops.lean ====
section
/-! DEFINITION. The named operations over the register window (spec/20_memory.md R40 to R57): the error
record and its clearing, which stand here for taking an exception and returning from one
(spec/60_exceptions.md R180, R181, R187), the admitted accesses, the completion of a command
(spec/30_encoding.md R80), reset (spec/70_reset_and_hazards.md R200), and the recording of a model fault. -/

namespace Sys2Proof.Machine

/-! ### Errors -/

/-- `raise Error(code)` (R181), all that an error does: the core has no trap, saves nothing and moves no
control (R180, R186). The access that caused it is suppressed where it is called (R50, R52). -/
def raiseError (code : ErrorCode) (s : State) : State := recordError code s

/-- The only "return" from an error (R187): a host's write of `STATUS` with bit 2 set. -/
def clearError (s : State) : State := clearErrorFlags s

/-! ### The window -/

/-- The platform address of a window offset, and back (R6, R40): every rule speaks of offsets. -/
def windowOffset (address : Nat) : Int := (address : Int) - (Config.base : Int)

/-- The offset of a register (R41). -/
def regOffset : Reg → Int
  | .data .keyHi => 0x00
  | .data .keyLo => 0x04
  | .data .dinHi => 0x08
  | .data .dinLo => 0x0C
  | .data .doutHi => 0x10
  | .data .doutLo => 0x14
  | .cmd => 0x18
  | .status => 0x1C

/-- The register at an offset (R41), or none: the offset names no word of the window. -/
def regAt (off : Int) : Option Reg :=
  if off = 0x00 then some (.data .keyHi)
  else if off = 0x04 then some (.data .keyLo)
  else if off = 0x08 then some (.data .dinHi)
  else if off = 0x0C then some (.data .dinLo)
  else if off = 0x10 then some (.data .doutHi)
  else if off = 0x14 then some (.data .doutLo)
  else if off = 0x18 then some .cmd
  else if off = 0x1C then some .status
  else none

/-- R44: an access is admitted if its width is 4 bytes, it is aligned, and it lies in the window. -/
def admitted (off : Int) (width : Nat) : Bool :=
  decide (width = 4) && decide (off % 4 = 0) && decide (0 ≤ off) && decide (off ≤ 0x1C)

/-- Store one data half with its mark. -/
def setHalf (h : HalfId) (d : DataHalf) (s : State) : State :=
  match h with
  | .keyHi => { s with keyHi := d }
  | .keyLo => { s with keyLo := d }
  | .dinHi => { s with dinHi := d }
  | .dinLo => { s with dinLo := d }
  | .doutHi => { s with doutHi := d }
  | .doutLo => { s with doutLo := d }

/-- An accepted host write of a half sets its mark (R24, R50). -/
def storeHalf (h : HalfId) (v : Word) (s : State) : State := setHalf h { val := v, written := true } s

/-- A host read of a data half (R46, R47). -/
def readHalf (h : HalfId) (s : State) : Except Fault Word :=
  if (s.half h).written then .ok (s.half h).val else .error .unwrittenRead

/-- What a read of a register returns (R46 to R49): `CMD` always reads 0. -/
def readReg (r : Reg) (s : State) : Except Fault Word :=
  match r with
  | .data h => readHalf h s
  | .cmd => .ok 0
  | .status => .ok (statusWord s)

/-- A host write of one of the halves of `KEY` and `DIN` (R50). -/
def writeOperand (h : HalfId) (v : Word) (s : State) : State :=
  if s.busy then raiseError .busyWrite s else storeHalf h v s

/-- A host write of `CMD` (R52): the launch. -/
def writeCmd (w : Word) (s : State) : State :=
  if s.busy then raiseError .busyWrite s
  else if legal w then setLaunched (opField w) (selField w) (clearDone s)
  else raiseError .illegalCmd (clearDone s)

/-- A host write of `STATUS` (R53): bit 2 clears the error, every other bit is ignored. -/
def writeStatus (v : Word) (s : State) : State := if v.getLsbD 2 then clearError s else s

/-- A host write of a register (R50 to R53); a write of `DOUT` has no effect (R51). -/
def writeReg (r : Reg) (v : Word) (s : State) : State :=
  match r with
  | .data .keyHi => writeOperand .keyHi v s
  | .data .keyLo => writeOperand .keyLo v s
  | .data .dinHi => writeOperand .dinHi v s
  | .data .dinLo => writeOperand .dinLo v s
  | .data .doutHi => s
  | .data .doutLo => s
  | .cmd => writeCmd v s
  | .status => writeStatus v s

/-- `MemRead(off, width)` (R44, R45): the register's value, or the fault `BUS_FAULT`. -/
def memRead (off : Int) (width : Nat) (s : State) : Except Fault Word :=
  if admitted off width then
    match regAt off with
    | some r => readReg r s
    | none => .error .busFault
  else .error .busFault

/-- `MemWrite(off, width, v)` (R44): the register's new state, or the fault `BUS_FAULT`. -/
def memWrite (off : Int) (width : Nat) (v : Word) (s : State) : Except Fault State :=
  if admitted off width then
    match regAt off with
    | some r => .ok (writeReg r v s)
    | none => .error .busFault
  else .error .busFault

/-! ### Completion -/

/-- `DOUT <- result`: all 64 bits at once, and both marks (R23, R80). -/
def storeDout (b : Block) (s : State) : State :=
  storeHalf .doutLo (rightHalf b) (storeHalf .doutHi (leftHalf b) s)

/-- The completion step of a command other than NOP (R80). `hs` are the halves it consumes; `result` is its
result as a function of `KEY` and `DIN`, already zero-extended into place (R76). -/
def completeWith (hs : List HalfId) (result : Block → Block → Except Fault Block) (s : State) :
    Host.Outcome State Fault Refusal :=
  if s.allWritten hs then
    match result s.key s.din with
    | .ok b => .next (setCompleted (storeDout b s))
    | .error f => .fault f
  else .fault .unwrittenRead

/-! ### Reset and recorded faults -/

/-- Reset (R200, R201, R35): the core's registers and flags take their reset values, a pending command is
abandoned, the fault set is kept, and nothing outside the core changes (DEDUCED, notes/assumptions/17). -/
def platformReset (s : State) : State :=
  { s with
    keyHi := .unwritten
    keyLo := .unwritten
    dinHi := .unwritten
    dinLo := .unwritten
    doutHi := .unwritten
    doutLo := .unwritten
    busy := false
    done := false
    err := false
    errcode := 0
    pending := { op := 0, sel := 0 } }

/-- A recorded reason, the first in R188's order (DESIGN CHOICE, notes/assumptions/5). -/
def FaultSet.reason? (f : FaultSet) : Option Fault :=
  if f.busFault then some .busFault
  else if f.unwrittenRead then some .unwrittenRead
  else if f.tableRange then some .tableRange
  else none

/-- Add a reason to the set. -/
def FaultSet.insert (r : Fault) (f : FaultSet) : FaultSet :=
  match r with
  | .busFault => { f with busFault := true }
  | .unwrittenRead => { f with unwrittenRead := true }
  | .tableRange => { f with tableRange := true }

/-- Record a model fault: a faulting step changes no register (R185, R188). -/
def recordFault (r : Fault) (s : State) : State := { s with faults := s.faults.insert r }

end Sys2Proof.Machine
end

