-- ==== Sys2Proof/Machine/KeySchedule.lean ====
section
/-! DEFINITION. The key scheduler (spec/41_key_schedule.md): parity, PC-1, the rotations, PC-2 and the whole
schedule (R110 to R118); and the commands PARITY, KSCD and RKEY (R121 to R123). -/

namespace Sys2Proof.Machine

/-- One byte of the parity step (R110): bits 7..1 stay, and bit 0 makes the byte's count of 1 bits odd. -/
def parityByte (b : BitVec 8) : BitVec 8 :=
  (b.extractLsb' 1 7 ++ BitVec.ofBool (popcount (b.extractLsb' 1 7) % 2 == 0) : BitVec (7 + 1))

/-- Byte `i` of a 64-bit value, `i` in 0..7: bits `63-8i : 56-8i` (R42, R110). -/
def desByte (k : Block) (i : Nat) : BitVec 8 := k.extractLsb' (56 - 8 * i) 8

/-- The parity step on all eight bytes (R110). -/
def parityFix (k : Block) : Block :=
  parityByte (desByte k 0) ++ parityByte (desByte k 1) ++ parityByte (desByte k 2) ++ parityByte (desByte k 3)
    ++ parityByte (desByte k 4) ++ parityByte (desByte k 5) ++ parityByte (desByte k 6)
    ++ parityByte (desByte k 7)

/-- `C`, the high half of a pair (R112). -/
def highKeyHalf (cd : KeyPair) : KeyHalf := cd.extractLsb' 28 28

/-- `D`, the low half of a pair (R112). -/
def lowKeyHalf (cd : KeyPair) : KeyHalf := cd.extractLsb' 0 28

/-- `CD0 = C0 ‖ D0` (R112): PC-1 of the parity-corrected key. -/
def initialPair (key : Block) : KeyPair := gather 56 tablePC1 (parityFix key)

/-- The pairs `C_r ‖ D_r` that follow `(C, D)` under a list of shifts: the state machine of R114, both
halves rotated on their own in each round. -/
def pairsFrom : List Nat → KeyHalf → KeyHalf → List KeyPair
  | [], _, _ => []
  | n :: shifts, c, d => (rotl28 c n ++ rotl28 d n) :: pairsFrom shifts (rotl28 c n) (rotl28 d n)

/-- `CDr[1..16]` (R117). -/
def keyPairs (key : Block) : List KeyPair :=
  pairsFrom shiftSchedule (highKeyHalf (initialPair key)) (lowKeyHalf (initialPair key))

/-- PC-2 of a pair: the round key (R116). -/
def compressPair (cd : KeyPair) : RoundKey := gather 48 tablePC2 cd

/-- `KS(key)`: the sixteen round keys `RK[1..16]` (R117). -/
def keySchedule (key : Block) : List RoundKey := (keyPairs key).map compressPair

/-- `CDr[r]`, `r` in 1..16 (R117). -/
def keyPair (key : Block) (r : Nat) : KeyPair := (keyPairs key).getD (r - 1) 0

/-- `KS(key)[r]`, `r` in 1..16 (R117). -/
def roundKey (key : Block) (r : Nat) : RoundKey := (keySchedule key).getD (r - 1) 0

/-- `PARITY` (R121): `DOUT <- parity_fix(DIN)`. -/
def execParity (s : State) : Host.Outcome State Fault Refusal :=
  completeWith (consumed .parity) (fun _ din => .ok (parityFix din)) s

/-- `KSCD.r` (R122): `DOUT <- zext_64(C_r ‖ D_r)`. -/
def execKscd (r : Nat) (s : State) : Host.Outcome State Fault Refusal :=
  if Instr.wellFormed (.kscd r) then
    completeWith (consumed (.kscd r)) (fun key _ => .ok ((keyPair key r).setWidth 64)) s
  else .refused .illFormedOperand

/-- `RKEY.r` (R123): `DOUT <- zext_64(KS(KEY)[r])`. -/
def execRkey (r : Nat) (s : State) : Host.Outcome State Fault Refusal :=
  if Instr.wellFormed (.rkey r) then
    completeWith (consumed (.rkey r)) (fun key _ => .ok ((roundKey key r).setWidth 64)) s
  else .refused .illFormedOperand

end Sys2Proof.Machine
end

