-- ==== Sys2Proof/Machine/Feistel.lean ====
section
/-! DEFINITION. The Feistel round (spec/42_feistel.md): expansion, key mixing, the eight S-boxes, the P-box
and the round (R130 to R146); and the commands SBOX and RND (R147, R148). -/

namespace Sys2Proof.Machine

/-- The row of a 6-bit group: its outer bits, `2·g<1> + g<6>` (R133, 90_conflicts.md C1). -/
def sboxRow (g : BitVec 6) : Nat := 2 * (desBit g 1).toNat + (desBit g 6).toNat

/-- The column of a 6-bit group: its inner bits `g<2>..g<5>`, that is `g[4:1]` (R133). -/
def sboxCol (g : BitVec 6) : Nat := (g.extractLsb' 1 4).toNat

/-- `Sj(g) = SBOX_j[row(g)][col(g)]` (R133). -/
def sboxLookup (j : Nat) (g : BitVec 6) : BitVec 4 :=
  BitVec.ofNat 4 (((sboxTable j).getD (sboxRow g) []).getD (sboxCol g) 0)

/-- Group `g_j` of a 48-bit value, `j` in 1..8: bits `53-6j : 48-6j` (R132). -/
def sboxGroup (x : RoundKey) (j : Nat) : BitVec 6 := x.extractLsb' (48 - 6 * j) 6

/-- One lane of the substitution array (R142): lane `j` reads only `g_j`. -/
def sboxLane (x : RoundKey) (j : Nat) : BitVec 4 := sboxLookup j (sboxGroup x j)

/-- `Sarr(X)` (R142): the eight nibbles in lane order, S1's on top. -/
def sboxArray (x : RoundKey) : Word :=
  sboxLane x 1 ++ sboxLane x 2 ++ sboxLane x 3 ++ sboxLane x 4 ++ sboxLane x 5 ++ sboxLane x 6
    ++ sboxLane x 7 ++ sboxLane x 8

/-- Expansion and key mixing: `E(R) xor K` (R130, R131). -/
def mixKey (rh : Word) (k : RoundKey) : RoundKey := gather 48 tableE rh ^^^ k

/-- The round function `f(R, K) = P(Sarr(E(R) xor K))` (R145). -/
def feistel (rh : Word) (k : RoundKey) : Word := gather 32 tableP (sboxArray (mixKey rh k))

/-- The round on the pair `(L, R)`: `(R, L xor f(R, K))` (R146). -/
def desRound (lr : Word × Word) (k : RoundKey) : Word × Word := (lr.2, lr.1 ^^^ feistel lr.2 k)

/-- RND's result: the bare round on the halves of `DIN`, put together again (R148). -/
def roundBlock (k : RoundKey) (din : Block) : Block :=
  let lr := desRound (leftHalf din, rightHalf din) k
  lr.1 ++ lr.2

/-- `SBOX.Sj` (R147): `DOUT <- zext_64(Sj(DIN[5:0]))`. -/
def execSbox (j : Nat) (s : State) : Host.Outcome State Fault Refusal :=
  if Instr.wellFormed (.sbox j) then
    completeWith (consumed (.sbox j)) (fun _ din => .ok ((sboxLookup j (din.setWidth 6)).setWidth 64)) s
  else .refused .illFormedOperand

/-- `RND.r` (R148): one round with round key `KS(KEY)[r]`, no IP and no FP. -/
def execRnd (r : Nat) (s : State) : Host.Outcome State Fault Refusal :=
  if Instr.wellFormed (.rnd r) then
    completeWith (consumed (.rnd r)) (fun key din => .ok (roundBlock (roundKey key r) din)) s
  else .refused .illFormedOperand

end Sys2Proof.Machine
end

