-- ==== Sys2Proof/Machine/Driver.lean ====
section
/-! DEFINITION. The block cipher driver (spec/43_driver.md): the state machine of one block (R160 to R163),
and the commands ENC, DEC and NOP (R166 to R168). The whole of it happens in one completion step (R33). -/

namespace Sys2Proof.Machine

/-- The sixteen rounds, taking the round keys in the order given (R118, R162, R163). -/
def runRounds (ks : List RoundKey) (lr : Word × Word) : Word × Word := ks.foldl desRound lr

/-- One block through IP, the rounds and FP. FP takes `R16 ‖ L16` (R160, R162, 90_conflicts.md C2). -/
def cipherBlock (ks : List RoundKey) (b : Block) : Block :=
  let x := gather 64 tableIP b
  let lr := runRounds ks (leftHalf x, rightHalf x)
  gather 64 tableFP (lr.2 ++ lr.1 : Block)

/-- `encrypt_block(key, B)` (R162): the round keys in order. -/
def encryptBlock (key b : Block) : Block := cipherBlock (keySchedule key) b

/-- `decrypt_block(key, B)` (R163): the round keys in reverse order. -/
def decryptBlock (key b : Block) : Block := cipherBlock (keySchedule key).reverse b

/-- `ENC` (R166): `DOUT <- encrypt_block(KEY, DIN)`. -/
def execEnc (s : State) : Host.Outcome State Fault Refusal :=
  completeWith (consumed .enc) (fun key din => .ok (encryptBlock key din)) s

/-- `DEC` (R167): `DOUT <- decrypt_block(KEY, DIN)`. -/
def execDec (s : State) : Host.Outcome State Fault Refusal :=
  completeWith (consumed .dec) (fun key din => .ok (decryptBlock key din)) s

/-- `NOP` (R168, R80): it completes, consumes nothing and writes nothing to `DOUT`. -/
def execNop (s : State) : Host.Outcome State Fault Refusal := .next (setCompleted s)

end Sys2Proof.Machine
end

