-- ==== Sys2Proof/Machine/Permutation.lean ====
section
/-! DEFINITION. The PERM family (spec/40_permutation.md R101, R102): the permutation engine with one table.
The input is `DIN[n-1:0]` and the result stands right-aligned in `DOUT` (spec/30_encoding.md R76). -/

namespace Sys2Proof.Machine

/-- PERM with a table of length `m` over `n` bits (R101): `zext_64(permute(T, n, DIN[n-1:0]))`. -/
def permResult (n m : Nat) (T : List Nat) (din : Block) : Except Fault Block :=
  match permute m T (din.setWidth n) with
  | .ok out => .ok (out.setWidth 64)
  | .error f => .error f

/-- `PERM.IP` (R101, R92): 64 to 64 bits. -/
def execPermIP (s : State) : Host.Outcome State Fault Refusal :=
  completeWith (consumed .permIP) (fun _ din => permResult 64 64 tableIP din) s

/-- `PERM.FP` (R101, R93): 64 to 64 bits. -/
def execPermFP (s : State) : Host.Outcome State Fault Refusal :=
  completeWith (consumed .permFP) (fun _ din => permResult 64 64 tableFP din) s

/-- `PERM.PC1` (R101, R94): 64 to 56 bits. -/
def execPermPC1 (s : State) : Host.Outcome State Fault Refusal :=
  completeWith (consumed .permPC1) (fun _ din => permResult 64 56 tablePC1 din) s

/-- `PERM.PC2` (R101, R95): 56 to 48 bits. -/
def execPermPC2 (s : State) : Host.Outcome State Fault Refusal :=
  completeWith (consumed .permPC2) (fun _ din => permResult 56 48 tablePC2 din) s

/-- `PERM.E` (R101, R96): 32 to 48 bits. -/
def execPermE (s : State) : Host.Outcome State Fault Refusal :=
  completeWith (consumed .permE) (fun _ din => permResult 32 48 tableE din) s

/-- `PERM.P` (R101, R97): 32 to 32 bits. -/
def execPermP (s : State) : Host.Outcome State Fault Refusal :=
  completeWith (consumed .permP) (fun _ din => permResult 32 32 tableP din) s

end Sys2Proof.Machine
end

