-- ==== Sys2Proof/Machine/Dispatch.lean ====
section
/-! DEFINITION. The completion of a command (spec/30_encoding.md R80): one arm a command. -/

namespace Sys2Proof.Machine

def exec (i : Instr) (s : State) : Host.Outcome State Fault Refusal :=
  match i with
  | .nop => Sys2Proof.Machine.execNop s
  | .enc => Sys2Proof.Machine.execEnc s
  | .dec => Sys2Proof.Machine.execDec s
  | .permIP => Sys2Proof.Machine.execPermIP s
  | .permFP => Sys2Proof.Machine.execPermFP s
  | .permPC1 => Sys2Proof.Machine.execPermPC1 s
  | .permPC2 => Sys2Proof.Machine.execPermPC2 s
  | .permE => Sys2Proof.Machine.execPermE s
  | .permP => Sys2Proof.Machine.execPermP s
  | .sbox j => Sys2Proof.Machine.execSbox j s
  | .rnd r => Sys2Proof.Machine.execRnd r s
  | .rkey r => Sys2Proof.Machine.execRkey r s
  | .kscd r => Sys2Proof.Machine.execKscd r s
  | .parity => Sys2Proof.Machine.execParity s

end Sys2Proof.Machine
end

