-- ==== Sys2Proof/Machine/HostProgram.lean ====
section
/-! DEFINITION. The host agent: one access at the window (spec/20_memory.md R44, R45), the statements of a
host program (spec/30_encoding.md R77), and the assembler's mnemonics and pseudo-instructions (R78, R79). -/

namespace Sys2Proof.Machine

/-- A value a host has read joins the observation of the run (R210; DESIGN CHOICE, notes/assumptions/18). -/
def logRead (v : Word) (s : State) : State := { s with reads := s.reads ++ [v] }

/-- One access arriving at the port (R44, R45). A read changes no state of the core. -/
def accessOp (op : HostOp) (s : State) : Host.Outcome State Fault Refusal :=
  match op with
  | .read off width =>
    match memRead off width s with
    | .ok v => .next (logRead v s)
    | .error f => .fault f
  | .write off width v =>
    match memWrite off width v s with
    | .ok t => .next t
    | .error f => .fault f
  | .other => .refused .notAHostAccess

/-- The value of a host variable; one that no statement has set holds a free value (notes/assumptions/9). -/
def lookupVar (x : Var) : List (Var × Word) → Word
  | [] => Config.unsetVar x
  | (y, v) :: vs => if x = y then v else lookupVar x vs

/-- Set a host variable, keeping the list by rising name with no name twice. -/
def insertVar (x : Var) (v : Word) : List (Var × Word) → List (Var × Word)
  | [] => [(x, v)]
  | (y, u) :: vs =>
    if x < y then (x, v) :: (y, u) :: vs
    else if x = y then (x, v) :: vs
    else (y, u) :: insertVar x v vs

/-- Read a host variable. -/
def getVar (x : Var) (s : State) : Word := lookupVar x s.host.vars

/-- Write a host variable. -/
def setVar (x : Var) (v : Word) (s : State) : State :=
  { s with host := { s.host with vars := insertVar x v s.host.vars } }

/-- Continue at statement `n`. -/
def gotoLine (n : Nat) (s : State) : State := { s with host := { s.host with pc := n } }

/-- Continue at the next statement. -/
def nextLine (s : State) : State := gotoLine (s.host.pc + 1) s

/-- The index, from `n` on, of the first statement that a label names (R77). -/
def findLabel (l : Label) : List Line → Nat → Option Nat
  | [], _ => none
  | ln :: p, n => if ln.labels.contains l then some n else findLabel l p (n + 1)

/-- Continue at the label if the condition holds, and at the next statement otherwise (R77). A label that names
no statement is refused (DESIGN CHOICE, notes/assumptions/11). -/
def jumpIf (c : Bool) (l : Label) (s : State) : Host.Outcome State Fault Refusal :=
  if c then
    match findLabel l s.host.prog 0 with
    | some n => .next (gotoLine n s)
    | none => .refused .noSuchLabel
  else .next (nextLine s)

/-- `wr`: one 4-byte write at the register's offset (R77). -/
def stmtWrite (r : Reg) (v : Word) (s : State) : Host.Outcome State Fault Refusal :=
  match memWrite (regOffset r) 4 v s with
  | .ok t => .next (nextLine t)
  | .error f => .fault f

/-- `rd`: one 4-byte read at the register's offset, into a variable (R77). -/
def stmtRead (x : Var) (r : Reg) (s : State) : Host.Outcome State Fault Refusal :=
  match memRead (regOffset r) 4 s with
  | .ok v => .next (nextLine (setVar x v (logRead v s)))
  | .error f => .fault f

/-- `halt`: the end of the host program (R77). -/
def stmtHalt (s : State) : State := { s with host := { s.host with ended := true } }

/-- The meaning of a statement (R77). A bit number past 31 reads as 0 (DESIGN CHOICE, notes/assumptions/16). -/
def execStmt (st : Stmt) (s : State) : Host.Outcome State Fault Refusal :=
  match st with
  | .wr r v => stmtWrite r v s
  | .wrVar r x => stmtWrite r (getVar x s) s
  | .rd x r => stmtRead x r s
  | .jb x bit l => jumpIf ((getVar x s).getLsbD bit) l s
  | .jnb x bit l => jumpIf (!(getVar x s).getLsbD bit) l s
  | .set x v => .next (nextLine (setVar x v s))
  | .xor x y => .next (nextLine (setVar x (getVar x s ^^^ getVar y s) s))
  | .add x v => .next (nextLine (setVar x (getVar x s + v) s))
  | .jne x v l => jumpIf (getVar x s != v) l s
  | .halt => .next (stmtHalt s)

/-- The statement the host runs next, or none: it has halted, or its program holds no further statement
(DESIGN CHOICE, notes/assumptions/10). -/
def currentStmt (s : State) : Option Stmt :=
  if s.host.ended then none else (s.host.prog[s.host.pc]?).map (·.stmt)

/-- The host's move: its next statement, or nothing if it has none. -/
def hostStep (s : State) : Host.Outcome State Fault Refusal :=
  match currentStmt s with
  | some st => execStmt st s
  | none => .next s

/-- A host program is loaded from outside the machine (notes/assumptions/3). -/
def loadProgram (p : List Line) (s : State) : State :=
  { s with host := { prog := p, pc := 0, vars := [], ended := false } }

/-! ### The assembler (R78, R79): each form is a list of lines -/

/-- A statement that no label names. -/
def plainLine (st : Stmt) : Line := { labels := [], stmt := st }

/-- `cmd M` (R78): write the command word of mnemonic `M`. -/
def asmCmd (i : Instr) : List Line := [plainLine (.wr .cmd (encode i))]

/-- `cmd raw imm32` (R78): write any word, legal or not. -/
def asmCmdRaw (w : Word) : List Line := [plainLine (.wr .cmd w)]

/-- `ldkey k64` (R79). -/
def asmLdkey (k : Block) : List Line :=
  [plainLine (.wr (.data .keyHi) (leftHalf k)), plainLine (.wr (.data .keyLo) (rightHalf k))]

/-- `ldin v64` (R79). -/
def asmLdin (v : Block) : List Line :=
  [plainLine (.wr (.data .dinHi) (leftHalf v)), plainLine (.wr (.data .dinLo) (rightHalf v))]

/-- `rdout hi, lo` (R79). -/
def asmRdout (hi lo : Var) : List Line :=
  [plainLine (.rd hi (.data .doutHi)), plainLine (.rd lo (.data .doutLo))]

/-- `wait` (R79): poll `STATUS` until bit 0 is 0. `lw` is the fresh label, `x` the host variable `s`. -/
def asmWait (lw : Label) (x : Var) : List Line :=
  [{ labels := [lw], stmt := .rd x .status }, plainLine (.jb x 0 lw)]

/-- `run M` (R79): `cmd M`, then `wait`. -/
def asmRun (i : Instr) (lw : Label) (x : Var) : List Line := asmCmd i ++ asmWait lw x

/-- `clrerr` (R79). -/
def asmClrerr : List Line := [plainLine (.wr .status 0x00000004)]

end Sys2Proof.Machine
end

