-- ==== Sys2Proof/Machine/Agents.lean ====
section
/-! DEFINITION. The two agents and the order of their moves (spec/10_state.md R20; spec/20_memory.md R55,
R58; spec/70_reset_and_hazards.md R209): which turn is next, what each turn does, and what a faulted state
does. Step.lean's `step` is `takeTurn`. -/

namespace Sys2Proof.Machine

/-- The core's completion step (R80), enabled if and only if `BUSY = 1`: the command that `PENDING` names
completes. A core turn with `BUSY = 0` does nothing (DESIGN CHOICE, notes/assumptions/19). -/
def coreStep (s : State) : Host.Outcome State Fault Refusal :=
  if s.busy then
    match decodeFields s.pending.op s.pending.sel with
    | some i => exec i s
    | none => .refused .pendingNotACommand
  else .next s

/-- The next turn of the total order (R58). Where the schedule says nothing, a pending command completes
first, which is the weak fairness of R209; then the host runs its program; then nothing is left to do
(DESIGN CHOICE, notes/assumptions/4). -/
def nextTurn (s : State) : Option Turn :=
  match s.sched with
  | t :: _ => some t
  | [] =>
    if s.busy then some .core
    else if (currentStmt s).isSome then some .program
    else none

/-- The turn in hand leaves the schedule. -/
def popTurn (s : State) : State := { s with sched := s.sched.tail }

/-- What a turn does (R58, R80, R200). -/
def runTurn (t : Turn) (s : State) : Host.Outcome State Fault Refusal :=
  match t with
  | .program => hostStep s
  | .access op => accessOp op s
  | .core => coreStep s
  | .reset => .next (platformReset s)

/-- One step. A faulted state takes no step of either agent (R188, U15); reset is the platform's, outside
both agents, and keeps the fault set (R200; DEDUCED, notes/assumptions/6), where it is the turn in hand
(notes/assumptions/23). An idle machine holds every register (R195). -/
def takeTurn (s : State) : Host.Outcome State Fault Refusal :=
  match s.faults.reason?, nextTurn s with
  | _, some .reset => runTurn .reset (popTurn s)
  | some r, _ => .fault r
  | none, some t => runTurn t (popTurn s)
  | none, none => .next s

/-- A host write of the value each half already holds, for the halves a command consumes: the operand
writes that the boot order asks for before the first command (R203 step 1). -/
def bootOperands : List HalfId → State → State
  | [], s => s
  | h :: hs, s => bootOperands hs (storeHalf h (s.half h).val s)

/-- An idle host launches the word `w`, and the core's completion step is next: the boot order of R203 with
the operands as they stand (DESIGN CHOICE, notes/assumptions/3). The spec has no such event while `BUSY = 1`:
there the pending command is dropped, with no completion and no reset (DESIGN CHOICE, notes/assumptions/24). -/
def launchNow (w : Word) (s : State) : State :=
  let t := writeCmd w (bootOperands ((decode w).elim [] consumed) { s with busy := false })
  { t with sched := .core :: t.sched }

end Sys2Proof.Machine
end

