-- ==== Sys2Proof/Machine/Step.lean ====
section
/-! DEFINITION. The step of the whole machine, and the two functions the host asks about it. -/

namespace Sys2Proof.Machine

/-- One step of the machine (spec/00_scope.md R11): the next turn of the total order of
spec/20_memory.md R58. -/
def step (s : State) : Host.Outcome State Fault Refusal := takeTurn s

/-- `s` with the command word `w` (its bits above `nbits` zero) launched, so that the very next step is its
completion. The core fetches nothing (R25): a word comes to run by a host's write of `CMD` (R52), after the
operand writes of R203 (DESIGN CHOICE, notes/assumptions/3). A command that is pending when the word is placed is
dropped (DESIGN CHOICE, notes/assumptions/24). -/
def State.withFetchWord (s : State) (nbits w : Nat) : State := launchNow (BitVec.ofNat 32 (w % 2 ^ nbits)) s

/-- One step with its fault recorded in the state (R188): a faulting step changes no register, and a refused
input is dropped (R11: it is not a state transition; DEDUCED, notes/assumptions/7). The spec does not order what
follows a fault: a turn that faults stays at the head of the schedule, so a reset queued behind it is never taken
(DESIGN CHOICE, notes/assumptions/23). -/
def advance (s : State) : State :=
  match step s with
  | .next t => t
  | .fault r => recordFault r s
  | .refused _ => popTurn s

end Sys2Proof.Machine
end

