-- ==== Sys2Proof/Machine/Platform.lean ====
section
/-! DEFINITION. A platform of `INSTANCES` cores (spec/60_exceptions.md R193): each has its own window,
registers and `STATUS`, and they share no state. The spec does not say who drives the windows: each core here has
a host, a record of reads and a schedule of its own (DESIGN CHOICE, notes/assumptions/25). -/

namespace Sys2Proof.Machine

/-- The cores of a platform, each a machine of its own with a host of its own, so no host program spans two cores
(DESIGN CHOICE, notes/assumptions/25). -/
structure Platform where
  cores : List State
  deriving DecidableEq, Repr

/-- A platform has as many cores as `INSTANCES` says (R6, R193). -/
def Platform.ofSize (p : Platform) : Prop := p.cores.length = Config.instances

/-- Core `n` takes a step. -/
def Platform.advanceCore (n : Nat) (p : Platform) : Platform := { cores := p.cores.modify n advance }

end Sys2Proof.Machine
end

