-- ==== Sys2Proof/Safety.lean ====
section
/-! DEFINITION. What counts as a good state and a good run, in the terms the claims use: the invariant of
the machine, the states of a run, its end, its failure and its observation (spec/60_exceptions.md R188;
spec/70_reset_and_hazards.md R210). -/

namespace Sys2Proof.Machine

/-- What every step keeps:
a pending command is one the core has (R52, R73);
`DONE` is 0 while `BUSY` is 1 (R28);
`ERRCODE` is 0 exactly while `ERR` is 0 (R29), and it is never a code this hardware does not raise (R182, U11);
the two halves of `DOUT` are written together (R23, R24). -/
structure Inv (s : State) : Prop where
  pendingNamesCommand : s.busy = true → (decodeFields s.pending.op s.pending.sel).isSome = true
  doneClearWhileBusy  : s.busy = true → s.done = false
  errcodeWithErr      : s.errcode = 0 ↔ s.err = false
  errcodeRaised       : s.errcode = 0 ∨ s.errcode = 1 ∨ s.errcode = 2
  doutMarksAgree      : s.doutHi.written = s.doutLo.written

/-- The host's variables stand in their one canonical form: by rising name, no name twice. -/
def varsSorted (vs : List (Var × Word)) : Prop := vs.Pairwise fun a b => a.1 < b.1

/-- No model fault is recorded (R188, R210). -/
def faultFree (s : State) : Prop := s.faults = .empty

/-- The state after `n` steps, with faults recorded. A run stays at its first fault (notes/assumptions/23). -/
def after : Nat → State → State
  | 0, s => s
  | n + 1, s => after n (advance s)

/-- The register write that the next turn does at the window, if it does one: its offset and its word. -/
def nextWrite (s : State) : Option (Int × Word) :=
  match nextTurn s with
  | some (.access (.write off width v)) => if admitted off width then some (off, v) else none
  | some .program =>
    match currentStmt s with
    | some (.wr r v) => some (regOffset r, v)
    | some (.wrVar r x) => some (regOffset r, getVar x s)
    | _ => none
  | _ => none

/-- The state that differs from `s` as a completion with result `b` says (R80), and in nothing else. -/
def completedWith (b : Block) (s : State) : State :=
  { s with
    doutHi := { val := b.extractLsb' 32 32, written := true }
    doutLo := { val := b.extractLsb' 0 32, written := true }
    busy := false
    done := true }

/-- A run ends when the host has executed `halt` and `BUSY = 0` (R210). -/
def runEnded (s : State) : Bool := s.host.ended && !s.busy

/-- What a run shows (R210): the values the host read, and the final registers as far as they are written,
with the word `STATUS` reads as. -/
structure Observation where
  reads  : List Word
  halves : List (Option Word)
  status : Word
  deriving DecidableEq, Repr

/-- A half's value where it is written; the definition of a run's observation does not say what an unwritten
one holds (R210). -/
def DataHalf.observed (d : DataHalf) : Option Word := if d.written then some d.val else none

/-- The observation of a run that stands at `s` (R210). -/
def observe (s : State) : Observation where
  reads := s.reads
  halves := [s.keyHi.observed, s.keyLo.observed, s.dinHi.observed, s.dinLo.observed, s.doutHi.observed,
    s.doutLo.observed]
  status := statusWord s

/-- Two states that differ at most in what their unwritten halves hold. -/
def sameButUnwritten (s t : State) : Prop :=
  (∀ h : HalfId, (s.half h).observed = (t.half h).observed) ∧
    s.busy = t.busy ∧ s.done = t.done ∧ s.err = t.err ∧ s.errcode = t.errcode ∧ s.pending = t.pending ∧
    s.faults = t.faults ∧ s.host = t.host ∧ s.reads = t.reads ∧ s.sched = t.sched

end Sys2Proof.Machine
end

