-- ==== Sys2Proof/Certificates/Slice0/Obligations.lean ====
section
/-! DEFINITION. The statements about the DES cipher core, for the provers. Each docstring names the rule of
spec/ that it formalises, and says where a clause is the model's own choice. -/

open Sys2Proof Sys2Proof.Machine

/-! ### Command words -/

/-- R70 to R72, R78: no bit of a command's word is dropped. -/
def Obligations.DecodeOfEncodeIsTheCommand : Prop :=
  ∀ i : Instr, i.wellFormed = true → decode (encode i) = some i

/-- R70 to R74: a word that decodes is the word of the command it decodes to, so no two words are one command
and no reserved word falls through to a neighbour. -/
def Obligations.DecodedWordIsTheCommandsWord : Prop :=
  ∀ (w : Word) (i : Instr), decode w = some i → i.wellFormed = true ∧ encode i = w

/-- R73 whole: the formula, the sixty-six words it admits, and that they are exactly the words that decode. -/
def Obligations.LegalWordsAreTheSixtySix : Prop :=
  let words := [0x00, 0x10, 0x20] ++ List.range' 0x30 6 ++ List.range' 0x40 8 ++ List.range' 0x50 48 ++ [0x80]
  words.length = 66 ∧ words.Nodup ∧
    ∀ w : Word,
      (legal w = true ↔ w.toNat ∈ words) ∧
      (legal w = true ↔
        w.extractLsb' 8 24 = 0 ∧
          ((w.extractLsb' 4 4 = 0x0 ∧ w.extractLsb' 0 4 = 0) ∨ (w.extractLsb' 4 4 = 0x1 ∧ w.extractLsb' 0 4 = 0) ∨
            (w.extractLsb' 4 4 = 0x2 ∧ w.extractLsb' 0 4 = 0) ∨
            (w.extractLsb' 4 4 = 0x3 ∧ (w.extractLsb' 0 4).toNat ≤ 5) ∨
            (w.extractLsb' 4 4 = 0x4 ∧ (w.extractLsb' 0 4).toNat ≤ 7) ∨
            w.extractLsb' 4 4 = 0x5 ∨ w.extractLsb' 4 4 = 0x6 ∨ w.extractLsb' 4 4 = 0x7 ∨
            (w.extractLsb' 4 4 = 0x8 ∧ w.extractLsb' 0 4 = 0))) ∧
      (legal w = true ↔ (decode w).isSome = true)

/-- R78: the words as the spec writes them, one or more of every family. -/
def Obligations.MnemonicWordsDecode : Prop :=
  decode 0x00#32 = some .nop ∧ decode 0x10#32 = some .enc ∧ decode 0x20#32 = some .dec ∧
    decode 0x30#32 = some .permIP ∧ decode 0x31#32 = some .permFP ∧ decode 0x32#32 = some .permPC1 ∧
    decode 0x33#32 = some .permPC2 ∧ decode 0x34#32 = some .permE ∧ decode 0x35#32 = some .permP ∧
    decode 0x40#32 = some (.sbox 1) ∧ decode 0x47#32 = some (.sbox 8) ∧ decode 0x50#32 = some (.rnd 1) ∧
    decode 0x5F#32 = some (.rnd 16) ∧ decode 0x60#32 = some (.rkey 1) ∧ decode 0x6F#32 = some (.rkey 16) ∧
    decode 0x70#32 = some (.kscd 1) ∧ decode 0x7F#32 = some (.kscd 16) ∧ decode 0x80#32 = some .parity

/-! ### The step -/

/-- R80: while `BUSY = 1`, when the core's turn is next, the step is the completion of the command that `PENDING`
decodes to; the turn in hand leaves the schedule. That an empty schedule gives the core the turn is the model's own
choice (notes/assumptions/4). `StepRunsTheTurnInHand` says the same of every other turn. -/
def Obligations.StepRunsThePendingCommand : Prop :=
  ∀ (s : State) (i : Instr), s.faults = .empty → s.busy = true →
    decodeFields s.pending.op s.pending.sel = some i → (s.sched = [] ∨ s.sched.head? = some .core) →
    step s = exec i { s with sched := s.sched.tail }

/-- R52, R80: a host writes a command's word to `CMD` while the core is idle; the step launches it, and the
core's next turn is the completion of that very command. -/
def Obligations.LaunchThenCompletionRunsTheCommand : Prop :=
  ∀ (s : State) (i : Instr) (rest : List Turn), i.wellFormed = true → s.faults = .empty → s.busy = false →
    s.sched = .access (.write 0x18 4 (encode i)) :: .core :: rest →
    let launched : State :=
      { s with busy := true, done := false, pending := { op := i.op, sel := i.sel }, sched := .core :: rest }
    step s = .next launched ∧ step launched = exec i { launched with sched := rest }

/-- notes/assumptions/3, the model's own reading of "a word placed where the next step takes it": the very next step
is the command's completion, on the state with its consumed halves (R76) marked written at the values they hold and
the command launched (R52); and it completes. Of a state with a command pending this is notes/assumptions/24: that
command is dropped. -/
def Obligations.PlacedWordRunsNext : Prop :=
  ∀ (s : State) (i : Instr), i.wellFormed = true → s.faults = .empty →
    let marked : HalfId → DataHalf := fun h =>
      { val := (s.half h).val, written := (s.half h).written || decide (h ∈ consumed i) }
    let launched : State :=
      { s with
        keyHi := marked .keyHi
        keyLo := marked .keyLo
        dinHi := marked .dinHi
        dinLo := marked .dinLo
        busy := true
        done := false
        pending := { op := i.op, sel := i.sel } }
    step (s.withFetchWord 32 (encode i).toNat) = exec i launched ∧
      ∃ t, exec i launched = .next t ∧ t.busy = false ∧ t.done = true ∧ t.sched = s.sched ∧
        t.keyHi.val = s.keyHi.val ∧ t.keyLo.val = s.keyLo.val ∧ t.dinHi.val = s.dinHi.val ∧
        t.dinLo.val = s.dinLo.val

/-! ### The register window -/

/-- R44: an access is admitted exactly if its width is 4 bytes, it is aligned and it lies in the window. Any
other access faults with `BUS_FAULT`, an admitted write never faults, an admitted read never faults so, and an
operation that is neither is refused. -/
def Obligations.OnlyAdmittedAccessesHaveAnEffect : Prop :=
  ∀ (s : State) (off : Int) (width : Nat) (v : Word),
    (¬(width = 4 ∧ off % 4 = 0 ∧ 0 ≤ off ∧ off ≤ 0x1C) →
      accessOp (.read off width) s = .fault .busFault ∧ accessOp (.write off width v) s = .fault .busFault) ∧
    (width = 4 ∧ off % 4 = 0 ∧ 0 ≤ off ∧ off ≤ 0x1C →
      accessOp (.read off width) s ≠ .fault .busFault ∧ ∃ t, accessOp (.write off width v) s = .next t) ∧
    accessOp .other s = .refused .notAHostAccess

/-- R46, R47: a read of a data half gives its value if it is written and faults if not; it changes nothing but
the record of what hosts have read. -/
def Obligations.DataHalfReadGivesItsValue : Prop :=
  ∀ p ∈ [((0x00 : Int), State.keyHi), (0x04, State.keyLo), (0x08, State.dinHi), (0x0C, State.dinLo),
      (0x10, State.doutHi), (0x14, State.doutLo)], ∀ s : State,
    ((p.2 s).written = true → accessOp (.read p.1 4) s = .next { s with reads := s.reads ++ [(p.2 s).val] }) ∧
    ((p.2 s).written = false → accessOp (.read p.1 4) s = .fault .unwrittenRead)

/-- R48: a read of `CMD` returns 0, even while a command is pending. -/
def Obligations.CmdReadsZero : Prop :=
  ∀ s : State, accessOp (.read 0x18 4) s = .next { s with reads := s.reads ++ [0#32] }

/-- R49: the word a read of `STATUS` returns, bit by bit, and that the read has no side effect. -/
def Obligations.StatusReadShowsTheFlags : Prop :=
  ∀ s : State, ∃ w : Word,
    accessOp (.read 0x1C 4) s = .next { s with reads := s.reads ++ [w] } ∧ w.getLsbD 0 = s.busy ∧
      w.getLsbD 1 = s.done ∧ w.getLsbD 2 = s.err ∧ w.getLsbD 3 = false ∧ w.extractLsb' 4 4 = s.errcode ∧
      ∀ b, 8 ≤ b → w.getLsbD b = false

/-- R50: a write of a half of `KEY` or `DIN` stores the word and marks it while idle; while `BUSY = 1` it is
ignored and raises `BUSY_WRITE` (code 2), which is kept only if `ERR` was 0. -/
def Obligations.OperandWriteStoresOrIsIgnored : Prop :=
  ∀ p ∈ [((0x00 : Int), fun (s : State) (d : DataHalf) => { s with keyHi := d }),
      (0x04, fun s d => { s with keyLo := d }), (0x08, fun s d => { s with dinHi := d }),
      (0x0C, fun s d => { s with dinLo := d })], ∀ (s : State) (v : Word),
    (s.busy = false → accessOp (.write p.1 4 v) s = .next (p.2 s { val := v, written := true })) ∧
    (s.busy = true →
      accessOp (.write p.1 4 v) s
        = .next { s with err := true, errcode := if s.err = true then s.errcode else 2 })

/-- R51: a write of `DOUT` has no effect, even while `BUSY = 1`. -/
def Obligations.DoutWriteHasNoEffect : Prop :=
  ∀ (s : State) (v : Word), accessOp (.write 0x10 4 v) s = .next s ∧ accessOp (.write 0x14 4 v) s = .next s

/-- R52: a write of `CMD` launches a legal word while idle, raises `ILLEGAL_CMD` (code 1) for an illegal one, and
while `BUSY = 1` raises `BUSY_WRITE` (code 2) for any word, which leaves the pending command alone. -/
def Obligations.CmdWriteLaunchesOrRaises : Prop :=
  ∀ (s : State) (w : Word),
    (s.busy = true →
      accessOp (.write 0x18 4 w) s
        = .next { s with err := true, errcode := if s.err = true then s.errcode else 2 }) ∧
    (s.busy = false → legal w = true →
      accessOp (.write 0x18 4 w) s
        = .next { s with
            done := false, busy := true, pending := { op := w.extractLsb' 4 4, sel := w.extractLsb' 0 4 } }) ∧
    (s.busy = false → legal w = false →
      accessOp (.write 0x18 4 w) s
        = .next { s with done := false, err := true, errcode := if s.err = true then s.errcode else 1 })

/-- R53: a write of `STATUS` clears `ERR` and `ERRCODE` if its bit 2 is set, and does nothing else. -/
def Obligations.StatusWriteClearsTheError : Prop :=
  ∀ (s : State) (v : Word),
    (v.getLsbD 2 = true → accessOp (.write 0x1C 4 v) s = .next { s with err := false, errcode := 0 }) ∧
    (v.getLsbD 2 = false → accessOp (.write 0x1C 4 v) s = .next s)

/-- R181 with the codes of R182: the first error keeps its code, and nothing else changes. -/
def Obligations.FirstErrorKeepsItsCode : Prop :=
  ∀ s : State,
    raiseError .illegalCmd s = { s with err := true, errcode := if s.err = false then 1 else s.errcode } ∧
      raiseError .busyWrite s = { s with err := true, errcode := if s.err = false then 2 else s.errcode }

/-! ### What changes each piece of state: rules over every step -/

/-- R27: `BUSY` changes only by an accepted launch, the completion step and reset, and these do change it. -/
def Obligations.BusyChangesOnlyAsStated : Prop :=
  ∀ s t : State, step s = .next t →
    (s.busy = false → (t.busy = true ↔ ∃ w, nextWrite s = some (0x18, w) ∧ legal w = true)) ∧
    (s.busy = true → (t.busy = false ↔ nextTurn s = some .core ∨ nextTurn s = some .reset))

/-- R28: `DONE` is set only by a completion, and cleared only by a `CMD` write while `BUSY = 0`, legal or not, and
by reset. -/
def Obligations.DoneChangesOnlyAsStated : Prop :=
  ∀ s t : State, step s = .next t →
    t.done =
      if nextTurn s = some .reset then false
      else if nextTurn s = some .core ∧ s.busy = true then true
      else if (∃ w, nextWrite s = some (0x18, w)) ∧ s.busy = false then false
      else s.done

/-- R29: what becomes of `ERR` and `ERRCODE` in a step: reset and a `STATUS` write with bit 2 set clear both; a
forbidden write while `BUSY = 1` raises code 2 and an illegal command word raises code 1, each kept only if `ERR`
was 0; nothing else changes either. -/
def Obligations.ErrorFlagsChangeOnlyAsStated : Prop :=
  ∀ s t : State, step s = .next t →
    (nextTurn s = some .reset ∧ t.err = false ∧ t.errcode = 0) ∨
    (∃ v : Word, nextWrite s = some (0x1C, v) ∧ v.getLsbD 2 = true ∧ t.err = false ∧ t.errcode = 0) ∨
    (∃ off v, nextWrite s = some (off, v) ∧ off ∈ [(0x00 : Int), 0x04, 0x08, 0x0C, 0x18] ∧ s.busy = true ∧
      t.err = true ∧ t.errcode = if s.err = true then s.errcode else 2) ∨
    (∃ w, nextWrite s = some (0x18, w) ∧ s.busy = false ∧ legal w = false ∧ t.err = true ∧
      t.errcode = if s.err = true then s.errcode else 1) ∨
    (t.err = s.err ∧ t.errcode = s.errcode)

/-- R21, R22, R24: a half of `KEY` or `DIN` changes only by an accepted host write of it, which marks it, and by
reset, which unmarks it; no command writes it. -/
def Obligations.OperandsChangeOnlyByAcceptedWrites : Prop :=
  ∀ p ∈ [((0x00 : Int), State.keyHi), (0x04, State.keyLo), (0x08, State.dinHi), (0x0C, State.dinLo)],
    ∀ s t : State, step s = .next t →
      (nextTurn s = some .reset ∧ (p.2 t).written = false) ∨
      (∃ v, nextWrite s = some (p.1, v) ∧ s.busy = false ∧ p.2 t = { val := v, written := true }) ∨
      p.2 t = p.2 s

/-- R23, R24: `DOUT` and its marks change only by reset and by the completion of a command other than NOP, which
marks both halves; NOP is the pending command whose `OP` is 0. -/
def Obligations.DoutChangesOnlyByCompletion : Prop :=
  ∀ s t : State, step s = .next t →
    (nextTurn s = some .reset ∧ t.doutHi.written = false ∧ t.doutLo.written = false) ∨
    (nextTurn s = some .core ∧ s.busy = true ∧ s.pending.op ≠ 0 ∧ t.doutHi.written = true ∧
      t.doutLo.written = true) ∨
    (t.doutHi = s.doutHi ∧ t.doutLo = s.doutLo)

/-- R188, U15: a faulted state takes no step of either agent and stays as it is, and R200: reset keeps the fault
set. That a faulted state takes a reset at all is the model's reading (notes/assumptions/6). A step that faults sets
the flag of its own reason, keeps the flags already set, and changes nothing else: no register (R185), and neither
the host nor the schedule, which are the model's choices (notes/assumptions/5 and 23). -/
def Obligations.FaultedStateIsStuck : Prop :=
  ∀ s : State,
    (s.faults ≠ .empty → nextTurn s ≠ some .reset → (∃ r, step s = .fault r) ∧ advance s = s) ∧
    (s.faults ≠ .empty → nextTurn s = some .reset → ∃ t, step s = .next t ∧ t.faults = s.faults) ∧
    (∀ r, step s = .fault r →
      advance s
        = { s with
            faults :=
              { busFault := s.faults.busFault || decide (r = .busFault)
                unwrittenRead := s.faults.unwrittenRead || decide (r = .unwrittenRead)
                tableRange := s.faults.tableRange || decide (r = .tableRange) } })

/-! ### Reset -/

/-- R35, R200 for the start of a run: idle, no error, nothing written, `CMD` and `STATUS` read 0, no fault. The
value under an unwritten mark and `PENDING` are the model's own (notes/assumptions/1 and 2) and are not stated. -/
def Obligations.ResetStateIsIdle : Prop :=
  State.reset.busy = false ∧ State.reset.done = false ∧ State.reset.err = false ∧ State.reset.errcode = 0 ∧
    (∀ h : HalfId, (State.reset.half h).written = false) ∧ State.reset.faults = .empty ∧
    memRead 0x18 4 State.reset = .ok 0 ∧ memRead 0x1C 4 State.reset = .ok 0

/-- R200, R201, R35: a reset puts every flag and mark at its reset value whatever the state, abandons a pending
command (a core turn right after it completes nothing), and keeps the fault set. That it keeps the host and the
reads is the model's reading (notes/assumptions/17), and that a core turn while idle only leaves the schedule is its
choice (notes/assumptions/19). -/
def Obligations.ResetAbandonsThePendingCommand : Prop :=
  ∀ (s : State) (rest : List Turn), s.faults = .empty → s.sched = .reset :: .core :: rest →
    ∃ t, step s = .next t ∧ t.busy = false ∧ t.done = false ∧ t.err = false ∧ t.errcode = 0 ∧
      (∀ h : HalfId, (t.half h).written = false) ∧ t.faults = s.faults ∧ t.host = s.host ∧ t.reads = s.reads ∧
      step t = .next { t with sched := rest }

/-! ### Invariants and isolation -/

/-- The invariant of Safety.lean holds right after reset. -/
def Obligations.InvariantHoldsAtReset : Prop := Inv State.reset ∧ varsSorted State.reset.host.vars

/-- R28, R29, R52, R73, R182 with U11, R23 with R24, over every step from every state that keeps them: a pending
command is one the core has, `DONE` is 0 while `BUSY` is 1, `ERRCODE` is 0 exactly while `ERR` is 0 and never a
code this hardware does not raise, and the halves of `DOUT` are written together. -/
def Obligations.EveryStepKeepsTheInvariant : Prop :=
  ∀ s t : State, Inv s → step s = .next t → Inv t

/-- The host's variables keep their one canonical form over every step, so that equal variable stores are equal
data. The form is the model's own. -/
def Obligations.EveryStepKeepsVariablesSorted : Prop :=
  ∀ s t : State, varsSorted s.host.vars → step s = .next t → varsSorted t.host.vars

/-- R24, U1: what an unwritten half holds never shows. Two states that differ at most in such values step to
states that do, fault alike, or are refused alike. -/
def Obligations.UnwrittenValuesNeverShow : Prop :=
  ∀ s t : State, sameButUnwritten s t →
    match step s, step t with
    | .next a, .next b => sameButUnwritten a b
    | .fault f, .fault g => f = g
    | .refused a, .refused b => a = b
    | _, _ => False

/-! ### Completions: the result of every command, and its frame

`completedWith b s` differs from `s` in `DOUT = b` with both marks, `BUSY = 0` and `DONE = 1`, and in nothing
else, so each of these says the whole frame. -/

/-- R101, R102 with R92 to R97: each PERM completes, position `k` of its right-aligned result is position `T[k]` of
its right-aligned input, and the bits above are 0. -/
def Obligations.PermCompletesWithTheGather : Prop :=
  ∀ p ∈ [(Instr.permIP, 64, 64, tableIP, [HalfId.dinHi, .dinLo]), (.permFP, 64, 64, tableFP, [.dinHi, .dinLo]),
      (.permPC1, 64, 56, tablePC1, [.dinHi, .dinLo]), (.permPC2, 56, 48, tablePC2, [.dinHi, .dinLo]),
      (.permE, 32, 48, tableE, [.dinLo]), (.permP, 32, 32, tableP, [.dinLo])],
    match p with
    | (i, n, m, T, hs) =>
      ∀ s : State, (∀ h ∈ hs, (s.half h).written = true) →
        ∃ b : Block, exec i s = .next (completedWith b s) ∧
          (∀ k, 1 ≤ k → k ≤ m → b.getLsbD (m - k) = s.din.getLsbD (n - T.getD (k - 1) 0)) ∧
          ∀ j, m ≤ j → b.getLsbD j = false

/-- R121, R110: PARITY completes; in each byte of `DOUT` bits 7..1 are `DIN`'s and the count of 1 bits is odd. -/
def Obligations.ParityCompletesWithOddBytes : Prop :=
  ∀ s : State, s.dinHi.written = true → s.dinLo.written = true →
    ∃ b : Block, exec .parity s = .next (completedWith b s) ∧
      ∀ i, i < 8 → b.extractLsb' (57 - 8 * i) 7 = s.din.extractLsb' (57 - 8 * i) 7 ∧
        popcount (b.extractLsb' (56 - 8 * i) 8) % 2 = 1

/-- R122 with R112 to R115 and R119: KSCD.r completes with each half of PC-1 of the key as it stands, rotated left
by the sum of the first `r` shifts, and zeros above. -/
def Obligations.KscdCompletesWithRotatedHalves : Prop :=
  ∀ (s : State) (r : Nat), 1 ≤ r → r ≤ 16 → s.keyHi.written = true → s.keyLo.written = true →
    let cd0 : KeyPair := gather 56 tablePC1 s.key
    let n := (shiftSchedule.take r).sum
    exec (.kscd r) s
      = .next (completedWith
          (((cd0.extractLsb' 28 28).rotateLeft n ++ (cd0.extractLsb' 0 28).rotateLeft n : BitVec (28 + 28)).setWidth 64)
          s)

/-- R123 with R116: RKEY.r completes with PC-2 of the pair that KSCD.r gives in the same state, position by
position, and zeros above. -/
def Obligations.RkeyCompletesWithPc2OfThePair : Prop :=
  ∀ (s : State) (r : Nat), 1 ≤ r → r ≤ 16 → s.keyHi.written = true → s.keyLo.written = true →
    ∃ cd rk : Block, exec (.kscd r) s = .next (completedWith cd s) ∧ exec (.rkey r) s = .next (completedWith rk s) ∧
      (∀ k, 1 ≤ k → k ≤ 48 → rk.getLsbD (48 - k) = cd.getLsbD (56 - tablePC2.getD (k - 1) 0)) ∧
      ∀ j, 48 ≤ j → rk.getLsbD j = false

/-- R147 with R133 to R141: SBOX.Sj completes with the entry of `Sj` at row `2·DIN[5] + DIN[0]` and column
`DIN[4:1]`. Only `DIN_LO` need be written. -/
def Obligations.SboxCompletesWithTheEntry : Prop :=
  ∀ (s : State) (j : Nat), 1 ≤ j → j ≤ 8 → s.dinLo.written = true →
    ∃ b : Block, exec (.sbox j) s = .next (completedWith b s) ∧
      ∃ row : List Nat,
        (sboxTable j)[2 * (s.din.getLsbD 5).toNat + (s.din.getLsbD 0).toNat]? = some row ∧
        row[(s.din.extractLsb' 1 4).toNat]? = some b.toNat

/-- R148 with R145, R146: RND.r completes with the bare round on the halves of `DIN` under `KS(KEY)[r]`. -/
def Obligations.RndCompletesWithTheRound : Prop :=
  ∀ (s : State) (r : Nat), 1 ≤ r → r ≤ 16 → s.keyHi.written = true → s.keyLo.written = true →
    s.dinHi.written = true → s.dinLo.written = true →
    ∃ b : Block, exec (.rnd r) s = .next (completedWith b s) ∧ b.extractLsb' 32 32 = s.dinLo.val ∧
      b.extractLsb' 0 32
        = s.dinHi.val ^^^ gather 32 tableP (sboxArray (gather 48 tableE s.dinLo.val ^^^ roundKey s.key r))

/-- R166 with R162: ENC completes with FP of `R16 ‖ L16`, for the sixteen rounds that start from IP of `DIN` and take
`RK[1]` to `RK[16]` in order. -/
def Obligations.EncCompletesWithSixteenRounds : Prop :=
  ∀ s : State, s.keyHi.written = true → s.keyLo.written = true → s.dinHi.written = true → s.dinLo.written = true →
    ∃ l r : Nat → Word,
      l 0 = (gather 64 tableIP s.din).extractLsb' 32 32 ∧ r 0 = (gather 64 tableIP s.din).extractLsb' 0 32 ∧
      (∀ n, n < 16 → l (n + 1) = r n ∧ r (n + 1) = l n ^^^ feistel (r n) (roundKey s.key (n + 1))) ∧
      exec .enc s = .next (completedWith (gather 64 tableFP (r 16 ++ l 16 : BitVec (32 + 32))) s)

/-- R167 with R163: DEC completes likewise, taking `RK[16]` first: round `n + 1` uses `RK[17 - (n + 1)]`. -/
def Obligations.DecCompletesWithReversedKeys : Prop :=
  ∀ s : State, s.keyHi.written = true → s.keyLo.written = true → s.dinHi.written = true → s.dinLo.written = true →
    ∃ l r : Nat → Word,
      l 0 = (gather 64 tableIP s.din).extractLsb' 32 32 ∧ r 0 = (gather 64 tableIP s.din).extractLsb' 0 32 ∧
      (∀ n, n < 16 → l (n + 1) = r n ∧ r (n + 1) = l n ^^^ feistel (r n) (roundKey s.key (17 - (n + 1)))) ∧
      exec .dec s = .next (completedWith (gather 64 tableFP (r 16 ++ l 16 : BitVec (32 + 32))) s)

/-- R168: NOP completes in every state; `DOUT` and every mark stay as they are. -/
def Obligations.NopCompletesAndWritesNothing : Prop :=
  ∀ s : State, exec .nop s = .next { s with busy := false, done := true }

/-- R80 with R76's table: a well-formed command faults with `UNWRITTEN_READ` exactly when one of the halves it
consumes is unwritten, and completes with no error otherwise (R183); an operand out of range is refused. -/
def Obligations.CommandFaultsExactlyOnUnwrittenOperands : Prop :=
  ∀ (s : State) (i : Instr) (hs : List HalfId),
    (i = .nop ∧ hs = [] ∨
      (i = .enc ∨ i = .dec ∨ ∃ r, i = .rnd r) ∧ hs = [.keyHi, .keyLo, .dinHi, .dinLo] ∨
      (i = .permIP ∨ i = .permFP ∨ i = .permPC1 ∨ i = .permPC2 ∨ i = .parity) ∧ hs = [.dinHi, .dinLo] ∨
      (i = .permE ∨ i = .permP ∨ ∃ j, i = .sbox j) ∧ hs = [.dinLo] ∨
      (∃ r, i = .rkey r ∨ i = .kscd r) ∧ hs = [.keyHi, .keyLo]) →
    (i.wellFormed = true →
      ((∃ h ∈ hs, (s.half h).written = false) → exec i s = .fault .unwrittenRead) ∧
      ((∀ h ∈ hs, (s.half h).written = true) →
        ∃ t, exec i s = .next t ∧ t.busy = false ∧ t.done = true ∧ t.err = s.err ∧ t.errcode = s.errcode)) ∧
    (i.wellFormed = false → exec i s = .refused .illFormedOperand)

/-- R80, R21, R22, R29, R31: what no completion changes, whichever command it is. -/
def Obligations.CompletionFrame : Prop :=
  ∀ (i : Instr) (s t : State), exec i s = .next t →
    t.keyHi = s.keyHi ∧ t.keyLo = s.keyLo ∧ t.dinHi = s.dinHi ∧ t.dinLo = s.dinLo ∧ t.err = s.err ∧
      t.errcode = s.errcode ∧ t.pending = s.pending ∧ t.faults = s.faults ∧ t.host = s.host ∧ t.reads = s.reads ∧
      t.sched = s.sched

/-! ### Laws of the permutation engine and its tables -/

/-- R90, R91: the engine gathers, position by position, over a table in range, and answers `TABLE_RANGE` and no
output over any other. -/
def Obligations.PermuteGathersOrFaults : Prop :=
  ∀ (n m : Nat) (T : List Nat) (v : BitVec n), T.length = m →
    ((∀ k ∈ T, 1 ≤ k ∧ k ≤ n) →
      ∃ out : BitVec m, permute m T v = .ok out ∧
        ∀ i, 1 ≤ i → i ≤ m → out.getLsbD (m - i) = v.getLsbD (n - T.getD (i - 1) 0)) ∧
    ((∃ k ∈ T, k < 1 ∨ n < k) → permute m T v = .error .tableRange)

/-- R98 with R102: the lengths of the six tables, that every entry is in range, and that IP, FP and P name every
position once. -/
def Obligations.TablesAreInRange : Prop :=
  (∀ p ∈ [(tableIP, 64, 64), (tableFP, 64, 64), (tablePC1, 64, 56), (tablePC2, 56, 48), (tableE, 32, 48),
      (tableP, 32, 32)], p.1.length = p.2.2 ∧ ∀ k ∈ p.1, 1 ≤ k ∧ k ≤ p.2.1) ∧
    tableIP.Nodup ∧ tableFP.Nodup ∧ tableP.Nodup

/-- R99: FP inverts IP, both ways. -/
def Obligations.FpInvertsIp : Prop :=
  (∀ x : Block, gather 64 tableFP (gather 64 tableIP x) = x ∧ gather 64 tableIP (gather 64 tableFP x) = x) ∧
    ∀ i, 1 ≤ i → i ≤ 64 → tableFP.getD (tableIP.getD (i - 1) 0 - 1) 0 = i

/-- R100: over any table in range, zero gathers to zero and all-ones to all-ones. -/
def Obligations.UniformInputsAreFixed : Prop :=
  ∀ (n m : Nat) (T : List Nat), T.length = m → (∀ k ∈ T, 1 ≤ k ∧ k ≤ n) →
    permute m T (0#n) = .ok 0#m ∧ permute m T (BitVec.allOnes n) = .ok (BitVec.allOnes m)

/-! ### Laws of the key schedule -/

/-- R111: the parity step twice is the parity step once, since bits 7..1 of each byte never change. -/
def Obligations.ParityStepIsIdempotent : Prop :=
  ∀ k : Block, parityFix (parityFix k) = parityFix k ∧
    ∀ i, i < 8 → (parityFix k).extractLsb' (57 - 8 * i) 7 = k.extractLsb' (57 - 8 * i) 7

/-- R115: the shifts sum to 28, so `KSCD.16`'s pair is `C0 ‖ D0`. -/
def Obligations.RotationsClose : Prop :=
  shiftSchedule.sum = 28 ∧
    ∀ key : Block,
      keyPair key 16 = gather 56 tablePC1 (parityFix key) ∧ keyPair key 16 = gather 56 tablePC1 key

/-- R119: keys that differ only in the eight parity positions have one schedule; PC-1 names none of them; the
parity step reaches no round key. -/
def Obligations.ParityBitsDoNotReachTheRoundKeys : Prop :=
  (∀ k ∈ tablePC1, k % 8 ≠ 0) ∧ (∀ k : Block, keySchedule (parityFix k) = keySchedule k) ∧
    ∀ k k' : Block, (∀ p, 1 ≤ p → p ≤ 64 → p % 8 ≠ 0 → k.getLsbD (64 - p) = k'.getLsbD (64 - p)) →
      keySchedule k = keySchedule k' ∧ ∀ b, encryptBlock k b = encryptBlock k' b ∧ decryptBlock k b = decryptBlock k' b

/-! ### Laws of the round and of the cipher -/

/-- R142, R133: lane `j` of the substitution array is `Sj` at the row and column of group `g_j`, and reads no other
bit. -/
def Obligations.SboxArrayLanesAreIndependent : Prop :=
  ∀ (x : RoundKey) (j : Nat), 1 ≤ j → j ≤ 8 →
    ∃ row : List Nat,
      (sboxTable j)[2 * (x.getLsbD (53 - 6 * j)).toNat + (x.getLsbD (48 - 6 * j)).toNat]? = some row ∧
      row[(x.extractLsb' (49 - 6 * j) 4).toNat]? = some ((sboxArray x).extractLsb' (32 - 4 * j) 4).toNat

/-- R143, and the shape of R134 to R141: four rows, each a permutation of 0..15, so no lookup falls outside. -/
def Obligations.SboxRowsArePermutations : Prop :=
  ∀ j, 1 ≤ j → j ≤ 8 →
    (sboxTable j).length = 4 ∧ (∀ row ∈ sboxTable j, List.Perm row (List.range 16)) ∧
      ∀ g : BitVec 6, sboxRow g ≤ 3 ∧ sboxCol g ≤ 15 ∧ (sboxLookup j g).toNat ≤ 15

/-- R146: the round and its inverse for a fixed key. -/
def Obligations.RoundIsInvertible : Prop :=
  ∀ (l rh : Word) (k : RoundKey),
    desRound (l, rh) k = (rh, l ^^^ feistel rh k) ∧
      ∀ l' r' : Word, desRound (l, rh) k = (l', r') → rh = l' ∧ l = r' ^^^ feistel l' k

/-- R164: decryption undoes encryption and encryption undoes decryption, for every key and block. -/
def Obligations.DecryptionInvertsEncryption : Prop :=
  ∀ key b : Block, decryptBlock key (encryptBlock key b) = b ∧ encryptBlock key (decryptBlock key b) = b

/-- R164, R167 on the machine: ENC, its `DOUT` written back to `DIN`, then DEC, gives the block that was encrypted. -/
def Obligations.EncThenDecReturnsTheBlock : Prop :=
  ∀ s : State, s.keyHi.written = true → s.keyLo.written = true → s.dinHi.written = true → s.dinLo.written = true →
    ∃ t u : State, exec .enc s = .next t ∧ exec .dec { t with dinHi := t.doutHi, dinLo := t.doutLo } = .next u ∧
      u.dout = s.din ∧ u.key = s.key

/-- Derived from R110 to R163: the complement of the key and of the block encrypts and decrypts to the complement.
No rule states it; a wrong entry of E, PC-1 or PC-2 that left the input would break it. -/
def Obligations.ComplementationHolds : Prop :=
  ∀ key b : Block,
    encryptBlock (~~~key) (~~~b) = ~~~(encryptBlock key b) ∧ decryptBlock (~~~key) (~~~b) = ~~~(decryptBlock key b)

/-! ### Progress, synchronisation, the host and the platform -/

/-- R209, weak fairness: from every state that meets the invariant, `BUSY` falls or a fault is recorded within one
step more than the schedule holds turns. That the schedule is finite is the model's own form of fairness
(notes/assumptions/4). -/
def Obligations.PendingCommandEventuallyCompletes : Prop :=
  ∀ s : State, Inv s → ∃ n, n ≤ s.sched.length + 1 ∧ ((after n s).busy = false ∨ (after n s).faults ≠ .empty)

/-- R59: a command is pending, and neither a reset nor a later accepted launch comes in the next `n` steps. If a
host that then reads `STATUS` sees `BUSY = 0`, `DOUT` holds that command's result on the `KEY` and `DIN` of the
launch, whatever accesses came between; and the first such read sees `DONE = 1`. -/
def Obligations.PollingSeesTheLaunchedResult : Prop :=
  ∀ (s : State) (i : Instr) (n : Nat), s.faults = .empty → s.busy = true →
    decodeFields s.pending.op s.pending.sel = some i →
    (∀ m, m < n → nextTurn (after m s) ≠ some .reset ∧
      ¬((after m s).busy = false ∧ ∃ w, nextWrite (after m s) = some (0x18, w) ∧ legal w = true)) →
    let u := after n s
    ∀ w : Word, accessOp (.read 0x1C 4) u = .next { u with reads := u.reads ++ [w] } → w.getLsbD 0 = false →
      (∃ t, exec i s = .next t ∧ u.doutHi = t.doutHi ∧ u.doutLo = t.doutLo) ∧
      ((∀ m, m < n → (after m s).busy = true) → w.getLsbD 1 = true)

/-- R77: the host-local statements `set`, `xor` and `add` write their variable and move on; they touch no core
state and no other variable. -/
def Obligations.HostLocalStatementsWriteOneVariable : Prop :=
  ∀ (s : State) (x y : Var) (v : Word),
    ∀ p ∈ [(Stmt.set x v, v), (.xor x y, getVar x s ^^^ getVar y s), (.add x v, getVar x s + v)],
      ∃ t, execStmt p.1 s = .next t ∧ getVar x t = p.2 ∧ (∀ z, z ≠ x → getVar z t = getVar z s) ∧
        t.host.pc = s.host.pc + 1 ∧ t.host.prog = s.host.prog ∧ t.host.ended = s.host.ended ∧
        t = { s with host := t.host }

/-- R41, R77: `wr` and `rd` are one 4-byte access at the register's offset, which is R41's number; `wr` moves on in the state the write gives,
and `rd` puts the word it read into its variable and changes nothing else of the host but its program counter. -/
def Obligations.HostAccessStatementsAreAccesses : Prop :=
  (regOffset (.data .keyHi) = 0x00 ∧ regOffset (.data .keyLo) = 0x04 ∧ regOffset (.data .dinHi) = 0x08 ∧
    regOffset (.data .dinLo) = 0x0C ∧ regOffset (.data .doutHi) = 0x10 ∧ regOffset (.data .doutLo) = 0x14 ∧
    regOffset .cmd = 0x18 ∧ regOffset .status = 0x1C) ∧
  ∀ (s : State) (r : Reg) (x : Var) (v : Word),
    (∃ t, accessOp (.write (regOffset r) 4 v) s = .next t ∧
      execStmt (.wr r v) s = .next { t with host := { s.host with pc := s.host.pc + 1 } }) ∧
    execStmt (.wrVar r x) s = execStmt (.wr r (getVar x s)) s ∧
    (∀ w, memRead (regOffset r) 4 s = .ok w →
      ∃ t, execStmt (.rd x r) s = .next t ∧ getVar x t = w ∧ (∀ z, z ≠ x → getVar z t = getVar z s) ∧
        t.host.pc = s.host.pc + 1 ∧ t.host.prog = s.host.prog ∧ t.host.ended = s.host.ended ∧
        t = { s with host := t.host, reads := s.reads ++ [w] }) ∧
    (∀ f, memRead (regOffset r) 4 s = .error f → execStmt (.rd x r) s = .fault f)

/-- R77: `jb`, `jnb` and `jne` move on where their condition does not hold, in any program. Where it holds they
continue at the one line that the label names; a label that names no line is refused, which is the model's own
choice (notes/assumptions/11). `halt` ends the program. None touches anything else. A bit number is one of a 32-bit
variable's. -/
def Obligations.HostJumpsFollowTheirCondition : Prop :=
  ∀ s : State,
    execStmt .halt s = .next { s with host := { s.host with ended := true } } ∧
    ∀ (x : Var) (bit : Nat) (v : Word) (l : Label), bit < 32 →
      ∀ p ∈ [(Stmt.jb x bit l, (getVar x s).getLsbD bit), (.jnb x bit l, !(getVar x s).getLsbD bit),
          (.jne x v l, decide (getVar x s ≠ v))],
        (p.2 = false → execStmt p.1 s = .next { s with host := { s.host with pc := s.host.pc + 1 } }) ∧
        (p.2 = true → ∀ n : Nat,
          (∀ m : Nat, (∃ ln : Line, s.host.prog[m]? = some ln ∧ l ∈ ln.labels) ↔ m = n) →
            execStmt p.1 s = .next { s with host := { s.host with pc := n } }) ∧
        (p.2 = true → (∀ ln ∈ s.host.prog, l ∉ ln.labels) → execStmt p.1 s = .refused .noSuchLabel)

/-- R193: the cores of a platform share no state: a step of one leaves every other as it was. A core here is a whole
machine with a host, a record of reads and a schedule of its own, so as to the hosts this is the model's own choice
(notes/assumptions/25): it says nothing of one host that drives several windows. -/
def Obligations.InstancesShareNoState : Prop :=
  ∀ (p : Platform) (a b : Nat) (s : State), p.cores[a]? = some s →
    (p.advanceCore a).cores[a]? = some (advance s) ∧ (b ≠ a → (p.advanceCore a).cores[b]? = p.cores[b]?) ∧
      (p.advanceCore a).cores.length = p.cores.length

/-! ### The turns of the step -/

/-- R58, R11: in a fault-free state the step is the meaning of the turn in hand: a host's access is `accessOp`, the
host's own turn is its current statement, reset is R200's, and a core turn with `BUSY = 1` is the completion (R80).
With an empty schedule and `BUSY = 0` the host runs its program; that order, and the empty moves of a host with
nothing to run and of an idle core, are the model's own choices (notes/assumptions/4, 10 and 19). -/
def Obligations.StepRunsTheTurnInHand : Prop :=
  ∀ s : State, s.faults = .empty →
    (∀ rest : List Turn,
      (∀ op : HostOp, s.sched = .access op :: rest → step s = accessOp op { s with sched := rest }) ∧
      (s.sched = .program :: rest →
        step s = match currentStmt s with
          | some st => execStmt st { s with sched := rest }
          | none => .next { s with sched := rest }) ∧
      (s.sched = .reset :: rest → step s = .next (platformReset { s with sched := rest })) ∧
      (s.sched = .core :: rest →
        (∀ i, s.busy = true → decodeFields s.pending.op s.pending.sel = some i →
          step s = exec i { s with sched := rest }) ∧
        (s.busy = false → step s = .next { s with sched := rest }))) ∧
    (s.sched = [] → s.busy = false →
      step s = match currentStmt s with
        | some st => execStmt st s
        | none => .next s)
end

