-- ==== Sys2Proof/Laws/Gather.lean ====
section
/-! SUPPORT. What DES positions and the permutation engine do (spec/00_scope.md R8; spec/40_permutation.md
R90, R91), said once: a value is its DES positions, and a gather's positions are the table's. -/

namespace Sys2Proof.Machine

/-- Two values with the same DES positions are equal. -/
theorem eq_of_desBit_eq {n : Nat} {a b : BitVec n} (h : ∀ k, 1 ≤ k → k ≤ n → desBit a k = desBit b k) :
    a = b := by
  apply BitVec.eq_of_getLsbD_eq
  intro i hi
  have := h (n - i) (by omega) (by omega)
  simpa only [desBit, show n - (n - i) = i by omega] using this

/-- A bit by its number is a DES position (R8). -/
theorem getLsbD_eq_desBit {n : Nat} (v : BitVec n) {i : Nat} (hi : i < n) : v.getLsbD i = desBit v (n - i) := by
  simp only [desBit, show n - (n - i) = i by omega]

/-- XOR acts position by position (R131). -/
theorem desBit_xor {n : Nat} (a b : BitVec n) (k : Nat) : desBit (a ^^^ b) k = (desBit a k ^^ desBit b k) := by
  simp [desBit]

/-- The complement flips every position. -/
theorem desBit_not {n : Nat} (a : BitVec n) {k : Nat} (h1 : 1 ≤ k) (hn : k ≤ n) :
    desBit (~~~a) k = !desBit a k := by
  simp only [desBit, BitVec.getLsbD_not]
  simp [show n - k < n by omega]

/-- No position of zero is set. -/
theorem desBit_zero {n : Nat} (k : Nat) : desBit (0 : BitVec n) k = false := by simp [desBit]

/-- Every position of the all-ones value is set. -/
theorem desBit_allOnes {n k : Nat} (h1 : 1 ≤ k) (hn : k ≤ n) : desBit (BitVec.allOnes n) k = true := by
  simp only [desBit, BitVec.getLsbD_allOnes, decide_eq_true_eq]
  omega

/-- A position of `a ‖ b` up to the width of `a` is `a`'s. -/
theorem desBit_append_left {n m : Nat} (a : BitVec n) (b : BitVec m) {k : Nat} (hn : k ≤ n) :
    desBit (a ++ b) k = desBit a k := by
  simp only [desBit, BitVec.getLsbD_append]
  rw [if_neg (by omega)]
  congr 1
  omega

/-- A position of `a ‖ b` past the width of `a` is `b`'s. -/
theorem desBit_append_right {n m : Nat} (a : BitVec n) (b : BitVec m) {k : Nat} (hn : n < k) (hm : k ≤ n + m) :
    desBit (a ++ b) k = desBit b (k - n) := by
  simp only [desBit, BitVec.getLsbD_append]
  rw [if_pos (by omega)]
  congr 1
  omega

/-- The digits a gather appends: the last position named is the lowest. -/
theorem gatherNat_testBit {n : Nat} (v : BitVec n) (T : List Nat) (acc i : Nat) :
    (gatherNat v T acc).testBit i
      = if i < T.length then desBit v (T.getD (T.length - 1 - i) 0) else acc.testBit (i - T.length) := by
  induction T generalizing acc with
  | nil => simp [gatherNat]
  | cons k T ih =>
    rw [gatherNat, ih, List.length_cons]
    by_cases hi : i < T.length
    · rw [if_pos hi, if_pos (by omega), show T.length + 1 - 1 - i = (T.length - 1 - i) + 1 by omega,
        List.getD_cons_succ]
    · rw [if_neg hi]
      by_cases he : i = T.length
      · subst he
        simp only [Nat.sub_self, Nat.lt_succ_self, if_true, Nat.add_sub_cancel, List.getD_cons_zero,
          Nat.testBit_zero]
        cases desBit v k <;> simp
      · obtain ⟨d, hd⟩ : ∃ d, i - T.length = d + 1 := ⟨i - T.length - 1, by omega⟩
        rw [if_neg (by omega), hd, show i - (T.length + 1) = d by omega, Nat.testBit_succ]
        congr 1
        cases desBit v k
        · simp
        · simp; omega

/-- R90: `out<k> = v<T[k]>` for a table of length `m`. -/
theorem gather_desBit {n m : Nat} {T : List Nat} (v : BitVec n) (hT : T.length = m) {k : Nat} (h1 : 1 ≤ k)
    (hm : k ≤ m) : desBit (gather m T v) k = desBit v (T.getD (k - 1) 0) := by
  subst hT
  simp only [desBit, gather, BitVec.getLsbD_ofNat]
  rw [gatherNat_testBit, if_pos (by omega), show T.length - 1 - (T.length - k) = k - 1 by omega]
  simp only [desBit, show T.length - k < T.length by omega, decide_true, Bool.true_and]

/-- A table in range names only positions of the input (R91). -/
theorem tableInRange_getD {n : Nat} {T : List Nat} (h : tableInRange n T = true) {k : Nat} (hk : k < T.length) :
    1 ≤ T.getD k 0 ∧ T.getD k 0 ≤ n := by
  have hm : T.getD k 0 ∈ T := by
    rw [List.getD_eq_getElem _ _ hk]
    exact List.getElem_mem hk
  have := List.all_eq_true.mp h _ hm
  simpa using this

/-- R91: over a table in range the engine answers its gather. -/
theorem permute_of_inRange {n : Nat} (m : Nat) {T : List Nat} (v : BitVec n) (h : tableInRange n T = true) :
    permute m T v = .ok (gather m T v) := by
  simp [permute, h]

/-- R91: over any other table the engine answers `TABLE_RANGE`. -/
theorem permute_of_not_inRange {n : Nat} (m : Nat) {T : List Nat} (v : BitVec n) (h : tableInRange n T = false) :
    permute m T v = .error .tableRange := by
  simp [permute, h]

/-! ### The tables: lengths and ranges (R102; R98 over R92 to R97) -/

theorem tableIP_length : tableIP.length = 64 := rfl
theorem tableFP_length : tableFP.length = 64 := rfl
theorem tablePC1_length : tablePC1.length = 56 := rfl
theorem tablePC2_length : tablePC2.length = 48 := rfl
theorem tableE_length : tableE.length = 48 := rfl
theorem tableP_length : tableP.length = 32 := rfl
theorem tableIP_inRange : tableInRange 64 tableIP = true := by decide
theorem tableFP_inRange : tableInRange 64 tableFP = true := by decide
theorem tablePC1_inRange : tableInRange 64 tablePC1 = true := by decide
theorem tablePC2_inRange : tableInRange 56 tablePC2 = true := by decide
theorem tableE_inRange : tableInRange 32 tableE = true := by decide
theorem tableP_inRange : tableInRange 32 tableP = true := by decide

end Sys2Proof.Machine
end

