-- ==== Sys2Proof/Laws/State.lean ====
section
/-! SUPPORT. One lemma for each field of State after each update of the model, true by rfl: no later proof
unfolds a record update. -/

namespace Sys2Proof.Machine

/-! ### setCompleted -/

@[simp] theorem setCompleted_keyHi (s : State) : (setCompleted s).keyHi = s.keyHi := rfl
@[simp] theorem setCompleted_keyLo (s : State) : (setCompleted s).keyLo = s.keyLo := rfl
@[simp] theorem setCompleted_dinHi (s : State) : (setCompleted s).dinHi = s.dinHi := rfl
@[simp] theorem setCompleted_dinLo (s : State) : (setCompleted s).dinLo = s.dinLo := rfl
@[simp] theorem setCompleted_doutHi (s : State) : (setCompleted s).doutHi = s.doutHi := rfl
@[simp] theorem setCompleted_doutLo (s : State) : (setCompleted s).doutLo = s.doutLo := rfl
@[simp] theorem setCompleted_busy (s : State) : (setCompleted s).busy = false := rfl
@[simp] theorem setCompleted_done (s : State) : (setCompleted s).done = true := rfl
@[simp] theorem setCompleted_err (s : State) : (setCompleted s).err = s.err := rfl
@[simp] theorem setCompleted_errcode (s : State) : (setCompleted s).errcode = s.errcode := rfl
@[simp] theorem setCompleted_pending (s : State) : (setCompleted s).pending = s.pending := rfl
@[simp] theorem setCompleted_faults (s : State) : (setCompleted s).faults = s.faults := rfl
@[simp] theorem setCompleted_host (s : State) : (setCompleted s).host = s.host := rfl
@[simp] theorem setCompleted_reads (s : State) : (setCompleted s).reads = s.reads := rfl
@[simp] theorem setCompleted_sched (s : State) : (setCompleted s).sched = s.sched := rfl

/-! ### clearDone -/

@[simp] theorem clearDone_keyHi (s : State) : (clearDone s).keyHi = s.keyHi := rfl
@[simp] theorem clearDone_keyLo (s : State) : (clearDone s).keyLo = s.keyLo := rfl
@[simp] theorem clearDone_dinHi (s : State) : (clearDone s).dinHi = s.dinHi := rfl
@[simp] theorem clearDone_dinLo (s : State) : (clearDone s).dinLo = s.dinLo := rfl
@[simp] theorem clearDone_doutHi (s : State) : (clearDone s).doutHi = s.doutHi := rfl
@[simp] theorem clearDone_doutLo (s : State) : (clearDone s).doutLo = s.doutLo := rfl
@[simp] theorem clearDone_busy (s : State) : (clearDone s).busy = s.busy := rfl
@[simp] theorem clearDone_done (s : State) : (clearDone s).done = false := rfl
@[simp] theorem clearDone_err (s : State) : (clearDone s).err = s.err := rfl
@[simp] theorem clearDone_errcode (s : State) : (clearDone s).errcode = s.errcode := rfl
@[simp] theorem clearDone_pending (s : State) : (clearDone s).pending = s.pending := rfl
@[simp] theorem clearDone_faults (s : State) : (clearDone s).faults = s.faults := rfl
@[simp] theorem clearDone_host (s : State) : (clearDone s).host = s.host := rfl
@[simp] theorem clearDone_reads (s : State) : (clearDone s).reads = s.reads := rfl
@[simp] theorem clearDone_sched (s : State) : (clearDone s).sched = s.sched := rfl

/-! ### setLaunched -/

@[simp] theorem setLaunched_keyHi (op sel : BitVec 4) (s : State) :
    (setLaunched op sel s).keyHi = s.keyHi := rfl
@[simp] theorem setLaunched_keyLo (op sel : BitVec 4) (s : State) :
    (setLaunched op sel s).keyLo = s.keyLo := rfl
@[simp] theorem setLaunched_dinHi (op sel : BitVec 4) (s : State) :
    (setLaunched op sel s).dinHi = s.dinHi := rfl
@[simp] theorem setLaunched_dinLo (op sel : BitVec 4) (s : State) :
    (setLaunched op sel s).dinLo = s.dinLo := rfl
@[simp] theorem setLaunched_doutHi (op sel : BitVec 4) (s : State) :
    (setLaunched op sel s).doutHi = s.doutHi := rfl
@[simp] theorem setLaunched_doutLo (op sel : BitVec 4) (s : State) :
    (setLaunched op sel s).doutLo = s.doutLo := rfl
@[simp] theorem setLaunched_busy (op sel : BitVec 4) (s : State) : (setLaunched op sel s).busy = true := rfl
@[simp] theorem setLaunched_done (op sel : BitVec 4) (s : State) : (setLaunched op sel s).done = s.done := rfl
@[simp] theorem setLaunched_err (op sel : BitVec 4) (s : State) : (setLaunched op sel s).err = s.err := rfl
@[simp] theorem setLaunched_errcode (op sel : BitVec 4) (s : State) :
    (setLaunched op sel s).errcode = s.errcode := rfl
@[simp] theorem setLaunched_pending (op sel : BitVec 4) (s : State) :
    (setLaunched op sel s).pending = { op := op, sel := sel } := rfl
@[simp] theorem setLaunched_faults (op sel : BitVec 4) (s : State) :
    (setLaunched op sel s).faults = s.faults := rfl
@[simp] theorem setLaunched_host (op sel : BitVec 4) (s : State) : (setLaunched op sel s).host = s.host := rfl
@[simp] theorem setLaunched_reads (op sel : BitVec 4) (s : State) :
    (setLaunched op sel s).reads = s.reads := rfl
@[simp] theorem setLaunched_sched (op sel : BitVec 4) (s : State) :
    (setLaunched op sel s).sched = s.sched := rfl

/-! ### recordError -/

@[simp] theorem recordError_keyHi (code : ErrorCode) (s : State) : (recordError code s).keyHi = s.keyHi := rfl
@[simp] theorem recordError_keyLo (code : ErrorCode) (s : State) : (recordError code s).keyLo = s.keyLo := rfl
@[simp] theorem recordError_dinHi (code : ErrorCode) (s : State) : (recordError code s).dinHi = s.dinHi := rfl
@[simp] theorem recordError_dinLo (code : ErrorCode) (s : State) : (recordError code s).dinLo = s.dinLo := rfl
@[simp] theorem recordError_doutHi (code : ErrorCode) (s : State) :
    (recordError code s).doutHi = s.doutHi := rfl
@[simp] theorem recordError_doutLo (code : ErrorCode) (s : State) :
    (recordError code s).doutLo = s.doutLo := rfl
@[simp] theorem recordError_busy (code : ErrorCode) (s : State) : (recordError code s).busy = s.busy := rfl
@[simp] theorem recordError_done (code : ErrorCode) (s : State) : (recordError code s).done = s.done := rfl
@[simp] theorem recordError_err (code : ErrorCode) (s : State) : (recordError code s).err = true := rfl
@[simp] theorem recordError_errcode (code : ErrorCode) (s : State) :
    (recordError code s).errcode = if s.err then s.errcode else errorNumber code := rfl
@[simp] theorem recordError_pending (code : ErrorCode) (s : State) :
    (recordError code s).pending = s.pending := rfl
@[simp] theorem recordError_faults (code : ErrorCode) (s : State) :
    (recordError code s).faults = s.faults := rfl
@[simp] theorem recordError_host (code : ErrorCode) (s : State) : (recordError code s).host = s.host := rfl
@[simp] theorem recordError_reads (code : ErrorCode) (s : State) : (recordError code s).reads = s.reads := rfl
@[simp] theorem recordError_sched (code : ErrorCode) (s : State) : (recordError code s).sched = s.sched := rfl

/-! ### clearErrorFlags -/

@[simp] theorem clearErrorFlags_keyHi (s : State) : (clearErrorFlags s).keyHi = s.keyHi := rfl
@[simp] theorem clearErrorFlags_keyLo (s : State) : (clearErrorFlags s).keyLo = s.keyLo := rfl
@[simp] theorem clearErrorFlags_dinHi (s : State) : (clearErrorFlags s).dinHi = s.dinHi := rfl
@[simp] theorem clearErrorFlags_dinLo (s : State) : (clearErrorFlags s).dinLo = s.dinLo := rfl
@[simp] theorem clearErrorFlags_doutHi (s : State) : (clearErrorFlags s).doutHi = s.doutHi := rfl
@[simp] theorem clearErrorFlags_doutLo (s : State) : (clearErrorFlags s).doutLo = s.doutLo := rfl
@[simp] theorem clearErrorFlags_busy (s : State) : (clearErrorFlags s).busy = s.busy := rfl
@[simp] theorem clearErrorFlags_done (s : State) : (clearErrorFlags s).done = s.done := rfl
@[simp] theorem clearErrorFlags_err (s : State) : (clearErrorFlags s).err = false := rfl
@[simp] theorem clearErrorFlags_errcode (s : State) : (clearErrorFlags s).errcode = 0 := rfl
@[simp] theorem clearErrorFlags_pending (s : State) : (clearErrorFlags s).pending = s.pending := rfl
@[simp] theorem clearErrorFlags_faults (s : State) : (clearErrorFlags s).faults = s.faults := rfl
@[simp] theorem clearErrorFlags_host (s : State) : (clearErrorFlags s).host = s.host := rfl
@[simp] theorem clearErrorFlags_reads (s : State) : (clearErrorFlags s).reads = s.reads := rfl
@[simp] theorem clearErrorFlags_sched (s : State) : (clearErrorFlags s).sched = s.sched := rfl

/-! ### storeDout -/

@[simp] theorem storeDout_keyHi (b : Block) (s : State) : (storeDout b s).keyHi = s.keyHi := rfl
@[simp] theorem storeDout_keyLo (b : Block) (s : State) : (storeDout b s).keyLo = s.keyLo := rfl
@[simp] theorem storeDout_dinHi (b : Block) (s : State) : (storeDout b s).dinHi = s.dinHi := rfl
@[simp] theorem storeDout_dinLo (b : Block) (s : State) : (storeDout b s).dinLo = s.dinLo := rfl
@[simp] theorem storeDout_doutHi (b : Block) (s : State) :
    (storeDout b s).doutHi = { val := leftHalf b, written := true } := rfl
@[simp] theorem storeDout_doutLo (b : Block) (s : State) :
    (storeDout b s).doutLo = { val := rightHalf b, written := true } := rfl
@[simp] theorem storeDout_busy (b : Block) (s : State) : (storeDout b s).busy = s.busy := rfl
@[simp] theorem storeDout_done (b : Block) (s : State) : (storeDout b s).done = s.done := rfl
@[simp] theorem storeDout_err (b : Block) (s : State) : (storeDout b s).err = s.err := rfl
@[simp] theorem storeDout_errcode (b : Block) (s : State) : (storeDout b s).errcode = s.errcode := rfl
@[simp] theorem storeDout_pending (b : Block) (s : State) : (storeDout b s).pending = s.pending := rfl
@[simp] theorem storeDout_faults (b : Block) (s : State) : (storeDout b s).faults = s.faults := rfl
@[simp] theorem storeDout_host (b : Block) (s : State) : (storeDout b s).host = s.host := rfl
@[simp] theorem storeDout_reads (b : Block) (s : State) : (storeDout b s).reads = s.reads := rfl
@[simp] theorem storeDout_sched (b : Block) (s : State) : (storeDout b s).sched = s.sched := rfl

/-! ### platformReset -/

@[simp] theorem platformReset_keyHi (s : State) : (platformReset s).keyHi = .unwritten := rfl
@[simp] theorem platformReset_keyLo (s : State) : (platformReset s).keyLo = .unwritten := rfl
@[simp] theorem platformReset_dinHi (s : State) : (platformReset s).dinHi = .unwritten := rfl
@[simp] theorem platformReset_dinLo (s : State) : (platformReset s).dinLo = .unwritten := rfl
@[simp] theorem platformReset_doutHi (s : State) : (platformReset s).doutHi = .unwritten := rfl
@[simp] theorem platformReset_doutLo (s : State) : (platformReset s).doutLo = .unwritten := rfl
@[simp] theorem platformReset_busy (s : State) : (platformReset s).busy = false := rfl
@[simp] theorem platformReset_done (s : State) : (platformReset s).done = false := rfl
@[simp] theorem platformReset_err (s : State) : (platformReset s).err = false := rfl
@[simp] theorem platformReset_errcode (s : State) : (platformReset s).errcode = 0 := rfl
@[simp] theorem platformReset_pending (s : State) : (platformReset s).pending = { op := 0, sel := 0 } := rfl
@[simp] theorem platformReset_faults (s : State) : (platformReset s).faults = s.faults := rfl
@[simp] theorem platformReset_host (s : State) : (platformReset s).host = s.host := rfl
@[simp] theorem platformReset_reads (s : State) : (platformReset s).reads = s.reads := rfl
@[simp] theorem platformReset_sched (s : State) : (platformReset s).sched = s.sched := rfl

/-! ### recordFault -/

@[simp] theorem recordFault_keyHi (r : Fault) (s : State) : (recordFault r s).keyHi = s.keyHi := rfl
@[simp] theorem recordFault_keyLo (r : Fault) (s : State) : (recordFault r s).keyLo = s.keyLo := rfl
@[simp] theorem recordFault_dinHi (r : Fault) (s : State) : (recordFault r s).dinHi = s.dinHi := rfl
@[simp] theorem recordFault_dinLo (r : Fault) (s : State) : (recordFault r s).dinLo = s.dinLo := rfl
@[simp] theorem recordFault_doutHi (r : Fault) (s : State) : (recordFault r s).doutHi = s.doutHi := rfl
@[simp] theorem recordFault_doutLo (r : Fault) (s : State) : (recordFault r s).doutLo = s.doutLo := rfl
@[simp] theorem recordFault_busy (r : Fault) (s : State) : (recordFault r s).busy = s.busy := rfl
@[simp] theorem recordFault_done (r : Fault) (s : State) : (recordFault r s).done = s.done := rfl
@[simp] theorem recordFault_err (r : Fault) (s : State) : (recordFault r s).err = s.err := rfl
@[simp] theorem recordFault_errcode (r : Fault) (s : State) : (recordFault r s).errcode = s.errcode := rfl
@[simp] theorem recordFault_pending (r : Fault) (s : State) : (recordFault r s).pending = s.pending := rfl
@[simp] theorem recordFault_faults (r : Fault) (s : State) :
    (recordFault r s).faults = s.faults.insert r := rfl
@[simp] theorem recordFault_host (r : Fault) (s : State) : (recordFault r s).host = s.host := rfl
@[simp] theorem recordFault_reads (r : Fault) (s : State) : (recordFault r s).reads = s.reads := rfl
@[simp] theorem recordFault_sched (r : Fault) (s : State) : (recordFault r s).sched = s.sched := rfl

/-! ### logRead -/

@[simp] theorem logRead_keyHi (v : Word) (s : State) : (logRead v s).keyHi = s.keyHi := rfl
@[simp] theorem logRead_keyLo (v : Word) (s : State) : (logRead v s).keyLo = s.keyLo := rfl
@[simp] theorem logRead_dinHi (v : Word) (s : State) : (logRead v s).dinHi = s.dinHi := rfl
@[simp] theorem logRead_dinLo (v : Word) (s : State) : (logRead v s).dinLo = s.dinLo := rfl
@[simp] theorem logRead_doutHi (v : Word) (s : State) : (logRead v s).doutHi = s.doutHi := rfl
@[simp] theorem logRead_doutLo (v : Word) (s : State) : (logRead v s).doutLo = s.doutLo := rfl
@[simp] theorem logRead_busy (v : Word) (s : State) : (logRead v s).busy = s.busy := rfl
@[simp] theorem logRead_done (v : Word) (s : State) : (logRead v s).done = s.done := rfl
@[simp] theorem logRead_err (v : Word) (s : State) : (logRead v s).err = s.err := rfl
@[simp] theorem logRead_errcode (v : Word) (s : State) : (logRead v s).errcode = s.errcode := rfl
@[simp] theorem logRead_pending (v : Word) (s : State) : (logRead v s).pending = s.pending := rfl
@[simp] theorem logRead_faults (v : Word) (s : State) : (logRead v s).faults = s.faults := rfl
@[simp] theorem logRead_host (v : Word) (s : State) : (logRead v s).host = s.host := rfl
@[simp] theorem logRead_reads (v : Word) (s : State) : (logRead v s).reads = s.reads ++ [v] := rfl
@[simp] theorem logRead_sched (v : Word) (s : State) : (logRead v s).sched = s.sched := rfl

/-! ### setVar -/

@[simp] theorem setVar_keyHi (x : Var) (v : Word) (s : State) : (setVar x v s).keyHi = s.keyHi := rfl
@[simp] theorem setVar_keyLo (x : Var) (v : Word) (s : State) : (setVar x v s).keyLo = s.keyLo := rfl
@[simp] theorem setVar_dinHi (x : Var) (v : Word) (s : State) : (setVar x v s).dinHi = s.dinHi := rfl
@[simp] theorem setVar_dinLo (x : Var) (v : Word) (s : State) : (setVar x v s).dinLo = s.dinLo := rfl
@[simp] theorem setVar_doutHi (x : Var) (v : Word) (s : State) : (setVar x v s).doutHi = s.doutHi := rfl
@[simp] theorem setVar_doutLo (x : Var) (v : Word) (s : State) : (setVar x v s).doutLo = s.doutLo := rfl
@[simp] theorem setVar_busy (x : Var) (v : Word) (s : State) : (setVar x v s).busy = s.busy := rfl
@[simp] theorem setVar_done (x : Var) (v : Word) (s : State) : (setVar x v s).done = s.done := rfl
@[simp] theorem setVar_err (x : Var) (v : Word) (s : State) : (setVar x v s).err = s.err := rfl
@[simp] theorem setVar_errcode (x : Var) (v : Word) (s : State) : (setVar x v s).errcode = s.errcode := rfl
@[simp] theorem setVar_pending (x : Var) (v : Word) (s : State) : (setVar x v s).pending = s.pending := rfl
@[simp] theorem setVar_faults (x : Var) (v : Word) (s : State) : (setVar x v s).faults = s.faults := rfl
@[simp] theorem setVar_host (x : Var) (v : Word) (s : State) :
    (setVar x v s).host = { s.host with vars := insertVar x v s.host.vars } := rfl
@[simp] theorem setVar_reads (x : Var) (v : Word) (s : State) : (setVar x v s).reads = s.reads := rfl
@[simp] theorem setVar_sched (x : Var) (v : Word) (s : State) : (setVar x v s).sched = s.sched := rfl

/-! ### gotoLine -/

@[simp] theorem gotoLine_keyHi (n : Nat) (s : State) : (gotoLine n s).keyHi = s.keyHi := rfl
@[simp] theorem gotoLine_keyLo (n : Nat) (s : State) : (gotoLine n s).keyLo = s.keyLo := rfl
@[simp] theorem gotoLine_dinHi (n : Nat) (s : State) : (gotoLine n s).dinHi = s.dinHi := rfl
@[simp] theorem gotoLine_dinLo (n : Nat) (s : State) : (gotoLine n s).dinLo = s.dinLo := rfl
@[simp] theorem gotoLine_doutHi (n : Nat) (s : State) : (gotoLine n s).doutHi = s.doutHi := rfl
@[simp] theorem gotoLine_doutLo (n : Nat) (s : State) : (gotoLine n s).doutLo = s.doutLo := rfl
@[simp] theorem gotoLine_busy (n : Nat) (s : State) : (gotoLine n s).busy = s.busy := rfl
@[simp] theorem gotoLine_done (n : Nat) (s : State) : (gotoLine n s).done = s.done := rfl
@[simp] theorem gotoLine_err (n : Nat) (s : State) : (gotoLine n s).err = s.err := rfl
@[simp] theorem gotoLine_errcode (n : Nat) (s : State) : (gotoLine n s).errcode = s.errcode := rfl
@[simp] theorem gotoLine_pending (n : Nat) (s : State) : (gotoLine n s).pending = s.pending := rfl
@[simp] theorem gotoLine_faults (n : Nat) (s : State) : (gotoLine n s).faults = s.faults := rfl
@[simp] theorem gotoLine_host (n : Nat) (s : State) : (gotoLine n s).host = { s.host with pc := n } := rfl
@[simp] theorem gotoLine_reads (n : Nat) (s : State) : (gotoLine n s).reads = s.reads := rfl
@[simp] theorem gotoLine_sched (n : Nat) (s : State) : (gotoLine n s).sched = s.sched := rfl

/-! ### stmtHalt -/

@[simp] theorem stmtHalt_keyHi (s : State) : (stmtHalt s).keyHi = s.keyHi := rfl
@[simp] theorem stmtHalt_keyLo (s : State) : (stmtHalt s).keyLo = s.keyLo := rfl
@[simp] theorem stmtHalt_dinHi (s : State) : (stmtHalt s).dinHi = s.dinHi := rfl
@[simp] theorem stmtHalt_dinLo (s : State) : (stmtHalt s).dinLo = s.dinLo := rfl
@[simp] theorem stmtHalt_doutHi (s : State) : (stmtHalt s).doutHi = s.doutHi := rfl
@[simp] theorem stmtHalt_doutLo (s : State) : (stmtHalt s).doutLo = s.doutLo := rfl
@[simp] theorem stmtHalt_busy (s : State) : (stmtHalt s).busy = s.busy := rfl
@[simp] theorem stmtHalt_done (s : State) : (stmtHalt s).done = s.done := rfl
@[simp] theorem stmtHalt_err (s : State) : (stmtHalt s).err = s.err := rfl
@[simp] theorem stmtHalt_errcode (s : State) : (stmtHalt s).errcode = s.errcode := rfl
@[simp] theorem stmtHalt_pending (s : State) : (stmtHalt s).pending = s.pending := rfl
@[simp] theorem stmtHalt_faults (s : State) : (stmtHalt s).faults = s.faults := rfl
@[simp] theorem stmtHalt_host (s : State) : (stmtHalt s).host = { s.host with ended := true } := rfl
@[simp] theorem stmtHalt_reads (s : State) : (stmtHalt s).reads = s.reads := rfl
@[simp] theorem stmtHalt_sched (s : State) : (stmtHalt s).sched = s.sched := rfl

/-! ### popTurn -/

@[simp] theorem popTurn_keyHi (s : State) : (popTurn s).keyHi = s.keyHi := rfl
@[simp] theorem popTurn_keyLo (s : State) : (popTurn s).keyLo = s.keyLo := rfl
@[simp] theorem popTurn_dinHi (s : State) : (popTurn s).dinHi = s.dinHi := rfl
@[simp] theorem popTurn_dinLo (s : State) : (popTurn s).dinLo = s.dinLo := rfl
@[simp] theorem popTurn_doutHi (s : State) : (popTurn s).doutHi = s.doutHi := rfl
@[simp] theorem popTurn_doutLo (s : State) : (popTurn s).doutLo = s.doutLo := rfl
@[simp] theorem popTurn_busy (s : State) : (popTurn s).busy = s.busy := rfl
@[simp] theorem popTurn_done (s : State) : (popTurn s).done = s.done := rfl
@[simp] theorem popTurn_err (s : State) : (popTurn s).err = s.err := rfl
@[simp] theorem popTurn_errcode (s : State) : (popTurn s).errcode = s.errcode := rfl
@[simp] theorem popTurn_pending (s : State) : (popTurn s).pending = s.pending := rfl
@[simp] theorem popTurn_faults (s : State) : (popTurn s).faults = s.faults := rfl
@[simp] theorem popTurn_host (s : State) : (popTurn s).host = s.host := rfl
@[simp] theorem popTurn_reads (s : State) : (popTurn s).reads = s.reads := rfl
@[simp] theorem popTurn_sched (s : State) : (popTurn s).sched = s.sched.tail := rfl

/-! ### The data halves by name -/

@[simp] theorem setCompleted_half (s : State) (h : HalfId) : (setCompleted s).half h = s.half h := by
  cases h <;> rfl
@[simp] theorem clearDone_half (s : State) (h : HalfId) : (clearDone s).half h = s.half h := by
  cases h <;> rfl
@[simp] theorem setLaunched_half (op sel : BitVec 4) (s : State) (h : HalfId) : (setLaunched op sel s).half h = s.half h := by
  cases h <;> rfl
@[simp] theorem recordError_half (code : ErrorCode) (s : State) (h : HalfId) : (recordError code s).half h = s.half h := by
  cases h <;> rfl
@[simp] theorem clearErrorFlags_half (s : State) (h : HalfId) : (clearErrorFlags s).half h = s.half h := by
  cases h <;> rfl
@[simp] theorem recordFault_half (r : Fault) (s : State) (h : HalfId) : (recordFault r s).half h = s.half h := by
  cases h <;> rfl
@[simp] theorem logRead_half (v : Word) (s : State) (h : HalfId) : (logRead v s).half h = s.half h := by
  cases h <;> rfl
@[simp] theorem setVar_half (x : Var) (v : Word) (s : State) (h : HalfId) : (setVar x v s).half h = s.half h := by
  cases h <;> rfl
@[simp] theorem gotoLine_half (n : Nat) (s : State) (h : HalfId) : (gotoLine n s).half h = s.half h := by
  cases h <;> rfl
@[simp] theorem stmtHalt_half (s : State) (h : HalfId) : (stmtHalt s).half h = s.half h := by
  cases h <;> rfl
@[simp] theorem popTurn_half (s : State) (h : HalfId) : (popTurn s).half h = s.half h := by
  cases h <;> rfl

@[simp] theorem setHalf_half_self (h : HalfId) (d : DataHalf) (s : State) : (setHalf h d s).half h = d := by
  cases h <;> rfl

/-- Storing one half leaves every other half alone. -/
theorem setHalf_half_of_ne {h h' : HalfId} (hne : h' ≠ h) (d : DataHalf) (s : State) :
    (setHalf h d s).half h' = s.half h' := by
  cases h <;> cases h' <;> first | rfl | exact absurd rfl hne

/-! ### setHalf: every field but the six halves -/

@[simp] theorem setHalf_busy (h : HalfId) (d : DataHalf) (s : State) : (setHalf h d s).busy = s.busy := by
  cases h <;> rfl
@[simp] theorem setHalf_done (h : HalfId) (d : DataHalf) (s : State) : (setHalf h d s).done = s.done := by
  cases h <;> rfl
@[simp] theorem setHalf_err (h : HalfId) (d : DataHalf) (s : State) : (setHalf h d s).err = s.err := by
  cases h <;> rfl
@[simp] theorem setHalf_errcode (h : HalfId) (d : DataHalf) (s : State) : (setHalf h d s).errcode = s.errcode := by
  cases h <;> rfl
@[simp] theorem setHalf_pending (h : HalfId) (d : DataHalf) (s : State) : (setHalf h d s).pending = s.pending := by
  cases h <;> rfl
@[simp] theorem setHalf_faults (h : HalfId) (d : DataHalf) (s : State) : (setHalf h d s).faults = s.faults := by
  cases h <;> rfl
@[simp] theorem setHalf_host (h : HalfId) (d : DataHalf) (s : State) : (setHalf h d s).host = s.host := by
  cases h <;> rfl
@[simp] theorem setHalf_reads (h : HalfId) (d : DataHalf) (s : State) : (setHalf h d s).reads = s.reads := by
  cases h <;> rfl
@[simp] theorem setHalf_sched (h : HalfId) (d : DataHalf) (s : State) : (setHalf h d s).sched = s.sched := by
  cases h <;> rfl

end Sys2Proof.Machine
end

