-- ==== Sys2Proof/Laws/Completion.lean ====
section
/-! SUPPORT. What a completion can do (spec/30_encoding.md R80), said once: `completeWith` for one command, and
`exec` for all of them. -/

namespace Sys2Proof.Machine

/-- A completion's store and flags are the state the claims name. -/
theorem setCompleted_storeDout (b : Block) (s : State) : setCompleted (storeDout b s) = completedWith b s := rfl

/-- A completion whose consumed halves are written stores its result (R80). -/
theorem completeWith_written {hs : List HalfId} {result : Block → Block → Except Fault Block} {s : State} {b : Block}
    (hw : s.allWritten hs = true) (hr : result s.key s.din = .ok b) :
    completeWith hs result s = .next (completedWith b s) := by
  simp only [completeWith, hw, hr, if_true, setCompleted_storeDout]

/-- A completion that consumes an unwritten half faults (R80). -/
theorem completeWith_unwritten {hs : List HalfId} (result : Block → Block → Except Fault Block) {s : State}
    (hw : s.allWritten hs = false) : completeWith hs result s = .fault .unwrittenRead := by
  simp [completeWith, hw]

/-- All that a completion which answers a next state can do. -/
theorem completeWith_next {hs : List HalfId} {result : Block → Block → Except Fault Block} {s t : State}
    (h : completeWith hs result s = .next t) :
    s.allWritten hs = true ∧ ∃ b, result s.key s.din = .ok b ∧ t = completedWith b s := by
  unfold completeWith at h
  split at h
  · rename_i hw
    split at h
    · rename_i b hb
      cases h
      exact ⟨hw, b, hb, rfl⟩
    · cases h
  · cases h

/-- PERM over a table in range answers the gather, zero-extended (R101). -/
theorem permResult_of_inRange {n m : Nat} {T : List Nat} (h : tableInRange n T = true) (din : Block) :
    permResult n m T din = .ok ((gather m T (din.setWidth n)).setWidth 64) := by
  simp [permResult, permute_of_inRange m (din.setWidth n) h]

/-- The result of each command but NOP as a function of `KEY` and `DIN` (R71, R76). -/
def commandResult (i : Instr) (key din : Block) : Block :=
  match i with
  | .nop => 0
  | .enc => encryptBlock key din
  | .dec => decryptBlock key din
  | .permIP => (gather 64 tableIP (din.setWidth 64)).setWidth 64
  | .permFP => (gather 64 tableFP (din.setWidth 64)).setWidth 64
  | .permPC1 => (gather 56 tablePC1 (din.setWidth 64)).setWidth 64
  | .permPC2 => (gather 48 tablePC2 (din.setWidth 56)).setWidth 64
  | .permE => (gather 48 tableE (din.setWidth 32)).setWidth 64
  | .permP => (gather 32 tableP (din.setWidth 32)).setWidth 64
  | .sbox j => (sboxLookup j (din.setWidth 6)).setWidth 64
  | .rnd r => roundBlock (roundKey key r) din
  | .rkey r => (roundKey key r).setWidth 64
  | .kscd r => (keyPair key r).setWidth 64
  | .parity => parityFix din

/-- The one form of all meanings but NOP's: a well-formed command's completion is `completeWith` over what it
consumes and its result; no table is out of range (R98). -/
theorem exec_eq_completeWith {i : Instr} (hi : i.wellFormed = true) (hn : i ≠ .nop) (s : State) :
    exec i s = completeWith (consumed i) (fun key din => .ok (commandResult i key din)) s := by
  cases i with
  | nop => exact absurd rfl hn
  | enc | dec | parity => rfl
  | sbox j | rnd j | rkey j | kscd j =>
    simp only [exec, execSbox, execRnd, execRkey, execKscd, hi, if_true, commandResult]
  | permIP =>
    simp only [exec, execPermIP, permResult_of_inRange tableIP_inRange, commandResult]
  | permFP =>
    simp only [exec, execPermFP, permResult_of_inRange tableFP_inRange, commandResult]
  | permPC1 =>
    simp only [exec, execPermPC1, permResult_of_inRange tablePC1_inRange, commandResult]
  | permPC2 =>
    simp only [exec, execPermPC2, permResult_of_inRange tablePC2_inRange, commandResult]
  | permE =>
    simp only [exec, execPermE, permResult_of_inRange tableE_inRange, commandResult]
  | permP =>
    simp only [exec, execPermP, permResult_of_inRange tableP_inRange, commandResult]

/-- A command whose operand is out of the spec's range is refused. -/
theorem exec_illFormed {i : Instr} (hi : i.wellFormed = false) (s : State) :
    exec i s = .refused .illFormedOperand := by
  cases i <;> first | cases hi | skip
  all_goals simp [exec, execSbox, execRnd, execRkey, execKscd, hi]

/-- All that a completion which answers a next state can do (R80). -/
theorem exec_next {i : Instr} {s t : State} (h : exec i s = .next t) :
    i.wellFormed = true ∧ s.allWritten (consumed i) = true ∧
      (i = .nop ∧ t = setCompleted s ∨ i ≠ .nop ∧ t = completedWith (commandResult i s.key s.din) s) := by
  by_cases hi : i.wellFormed = true
  · by_cases hn : i = .nop
    · subst hn
      cases h
      exact ⟨rfl, rfl, .inl ⟨rfl, rfl⟩⟩
    · rw [exec_eq_completeWith hi hn] at h
      obtain ⟨hw, b, hb, rfl⟩ := completeWith_next h
      cases hb
      exact ⟨hi, hw, .inr ⟨hn, rfl⟩⟩
  · rw [exec_illFormed (Bool.eq_false_iff.mpr hi)] at h
    cases h

end Sys2Proof.Machine
end

