-- ==== Sys2Proof/Laws/Window.lean ====
section
/-! SUPPORT. What the window's accesses can do (spec/20_memory.md R41 to R53), said once. -/

namespace Sys2Proof.Machine

/-- The register at a register's offset is that register (R41). -/
theorem regAt_regOffset (r : Reg) : regAt (regOffset r) = some r := by
  rcases r with h | _ | _
  · cases h <;> rfl
  · rfl
  · rfl

/-- A register at an offset has that offset: no two registers share one (R41). -/
theorem regOffset_of_regAt {off : Int} {r : Reg} (h : regAt off = some r) : off = regOffset r := by
  unfold regAt at h
  repeat' split at h
  all_goals cases h
  all_goals assumption

/-- An access at a register's offset is admitted (R44). -/
theorem admitted_regOffset (r : Reg) : admitted (regOffset r) 4 = true := by
  rcases r with h | _ | _
  · cases h <;> rfl
  · rfl
  · rfl

/-- R44 in words. -/
theorem admitted_iff {off : Int} {width : Nat} :
    admitted off width = true ↔ width = 4 ∧ off % 4 = 0 ∧ 0 ≤ off ∧ off ≤ 0x1C := by
  simp [admitted, and_assoc]

/-- No offset in the window is unmapped (R41): an admitted access names a register. -/
theorem regAt_of_admitted {off : Int} {width : Nat} (h : admitted off width = true) :
    width = 4 ∧ ∃ r, off = regOffset r := by
  obtain ⟨hw, hm, h0, h1⟩ := admitted_iff.mp h
  refine ⟨hw, ?_⟩
  have : off = 0x00 ∨ off = 0x04 ∨ off = 0x08 ∨ off = 0x0C ∨ off = 0x10 ∨ off = 0x14 ∨ off = 0x18 ∨ off = 0x1C := by
    omega
  rcases this with h | h | h | h | h | h | h | h
  · exact ⟨.data .keyHi, h⟩
  · exact ⟨.data .keyLo, h⟩
  · exact ⟨.data .dinHi, h⟩
  · exact ⟨.data .dinLo, h⟩
  · exact ⟨.data .doutHi, h⟩
  · exact ⟨.data .doutLo, h⟩
  · exact ⟨.cmd, h⟩
  · exact ⟨.status, h⟩

/-- A read at a register's offset. -/
theorem memRead_regOffset (r : Reg) (s : State) : memRead (regOffset r) 4 s = readReg r s := by
  simp [memRead, admitted_regOffset, regAt_regOffset]

/-- A write at a register's offset. -/
theorem memWrite_regOffset (r : Reg) (v : Word) (s : State) :
    memWrite (regOffset r) 4 v s = .ok (writeReg r v s) := by
  simp [memWrite, admitted_regOffset, regAt_regOffset]

/-- An access that R44 does not admit faults. -/
theorem memRead_not_admitted {off : Int} {width : Nat} (h : admitted off width = false) (s : State) :
    memRead off width s = .error .busFault := by simp [memRead, h]

/-- An access that R44 does not admit faults. -/
theorem memWrite_not_admitted {off : Int} {width : Nat} (h : admitted off width = false) (v : Word) (s : State) :
    memWrite off width v s = .error .busFault := by simp [memWrite, h]

/-- All that a write can do: it is a register's. -/
theorem memWrite_ok {off : Int} {width : Nat} {v : Word} {s t : State} (h : memWrite off width v s = .ok t) :
    admitted off width = true ∧ ∃ r, off = regOffset r ∧ t = writeReg r v s := by
  by_cases ha : admitted off width = true
  · obtain ⟨rfl, r, rfl⟩ := regAt_of_admitted ha
    rw [memWrite_regOffset] at h
    cases h
    exact ⟨ha, r, rfl, rfl⟩
  · rw [memWrite_not_admitted (Bool.eq_false_iff.mpr ha)] at h
    cases h

/-- All that a register write can do (R50 to R53): a stored operand half, a recorded error, a launch, a
cleared error, or nothing. -/
theorem writeReg_cases (r : Reg) (v : Word) (s : State) :
    (∃ h, r = .data h ∧ h ∈ [HalfId.keyHi, .keyLo, .dinHi, .dinLo] ∧ s.busy = true ∧
        writeReg r v s = recordError .busyWrite s) ∨
    (∃ h, r = .data h ∧ h ∈ [HalfId.keyHi, .keyLo, .dinHi, .dinLo] ∧ s.busy = false ∧
        writeReg r v s = setHalf h { val := v, written := true } s) ∨
    (∃ h, r = .data h ∧ h ∈ [HalfId.doutHi, .doutLo] ∧ writeReg r v s = s) ∨
    (r = .cmd ∧ s.busy = true ∧ writeReg r v s = recordError .busyWrite s) ∨
    (r = .cmd ∧ s.busy = false ∧ legal v = true ∧
        writeReg r v s = setLaunched (opField v) (selField v) (clearDone s)) ∨
    (r = .cmd ∧ s.busy = false ∧ legal v = false ∧ writeReg r v s = recordError .illegalCmd (clearDone s)) ∨
    (r = .status ∧ v.getLsbD 2 = true ∧ writeReg r v s = clearErrorFlags s) ∨
    (r = .status ∧ v.getLsbD 2 = false ∧ writeReg r v s = s) := by
  rcases r with h | _ | _
  · cases hb : s.busy <;> cases h <;>
      simp [writeReg, writeOperand, raiseError, storeHalf, hb]
  · cases hb : s.busy <;> cases hl : legal v <;> simp [writeReg, writeCmd, raiseError, hb, hl]
  · cases hv : v.getLsbD 2 <;> simp only [writeReg, writeStatus, clearError, hv] <;> simp

end Sys2Proof.Machine
end

