-- ==== Sys2Proof/Laws/Agents.lean ====
section
/-! SUPPORT. What a step can do, said once (spec/20_memory.md R58): the four kinds of turn. -/

namespace Sys2Proof.Machine

@[simp] theorem currentStmt_popTurn (s : State) : currentStmt (popTurn s) = currentStmt s := rfl
@[simp] theorem getVar_popTurn (x : Var) (s : State) : getVar x (popTurn s) = getVar x s := rfl
@[simp] theorem key_popTurn (s : State) : (popTurn s).key = s.key := rfl
@[simp] theorem din_popTurn (s : State) : (popTurn s).din = s.din := rfl
@[simp] theorem allWritten_popTurn (s : State) (hs : List HalfId) :
    (popTurn s).allWritten hs = s.allWritten hs := by
  simp [State.allWritten]

/-- The state with the host agent and its reads replaced, the rest as it was. -/
def hostMoved (a : HostAgent) (rs : List Word) (s : State) : State := { s with host := a, reads := rs }

@[simp] theorem hostMoved_keyHi (a : HostAgent) (rs : List Word) (s : State) :
    (hostMoved a rs s).keyHi = s.keyHi := rfl
@[simp] theorem hostMoved_keyLo (a : HostAgent) (rs : List Word) (s : State) :
    (hostMoved a rs s).keyLo = s.keyLo := rfl
@[simp] theorem hostMoved_dinHi (a : HostAgent) (rs : List Word) (s : State) :
    (hostMoved a rs s).dinHi = s.dinHi := rfl
@[simp] theorem hostMoved_dinLo (a : HostAgent) (rs : List Word) (s : State) :
    (hostMoved a rs s).dinLo = s.dinLo := rfl
@[simp] theorem hostMoved_doutHi (a : HostAgent) (rs : List Word) (s : State) :
    (hostMoved a rs s).doutHi = s.doutHi := rfl
@[simp] theorem hostMoved_doutLo (a : HostAgent) (rs : List Word) (s : State) :
    (hostMoved a rs s).doutLo = s.doutLo := rfl
@[simp] theorem hostMoved_busy (a : HostAgent) (rs : List Word) (s : State) :
    (hostMoved a rs s).busy = s.busy := rfl
@[simp] theorem hostMoved_done (a : HostAgent) (rs : List Word) (s : State) :
    (hostMoved a rs s).done = s.done := rfl
@[simp] theorem hostMoved_err (a : HostAgent) (rs : List Word) (s : State) :
    (hostMoved a rs s).err = s.err := rfl
@[simp] theorem hostMoved_errcode (a : HostAgent) (rs : List Word) (s : State) :
    (hostMoved a rs s).errcode = s.errcode := rfl
@[simp] theorem hostMoved_pending (a : HostAgent) (rs : List Word) (s : State) :
    (hostMoved a rs s).pending = s.pending := rfl
@[simp] theorem hostMoved_faults (a : HostAgent) (rs : List Word) (s : State) :
    (hostMoved a rs s).faults = s.faults := rfl
@[simp] theorem hostMoved_host (a : HostAgent) (rs : List Word) (s : State) :
    (hostMoved a rs s).host = a := rfl
@[simp] theorem hostMoved_reads (a : HostAgent) (rs : List Word) (s : State) :
    (hostMoved a rs s).reads = rs := rfl
@[simp] theorem hostMoved_sched (a : HostAgent) (rs : List Word) (s : State) :
    (hostMoved a rs s).sched = s.sched := rfl
@[simp] theorem hostMoved_half (a : HostAgent) (rs : List Word) (s : State) (h : HalfId) :
    (hostMoved a rs s).half h = s.half h := by
  cases h <;> rfl

/-- A register write leaves the host agent, the reads, the schedule and the fault set alone. -/
theorem writeReg_others (r : Reg) (v : Word) (s : State) :
    (writeReg r v s).host = s.host ∧ (writeReg r v s).reads = s.reads ∧ (writeReg r v s).sched = s.sched ∧
      (writeReg r v s).faults = s.faults := by
  rcases writeReg_cases r v s with ⟨_, _, _, _, h⟩ | ⟨_, _, _, _, h⟩ | ⟨_, _, _, h⟩ | ⟨_, _, h⟩ | ⟨_, _, _, h⟩ |
    ⟨_, _, _, h⟩ | ⟨_, _, h⟩ | ⟨_, _, h⟩ <;> rw [h] <;> simp

/-- A jump moves the host's program counter and nothing else. -/
theorem jumpIf_next {c : Bool} {l : Label} {s t : State} (h : jumpIf c l s = .next t) :
    ∃ n, t = gotoLine n s := by
  unfold jumpIf at h
  split at h
  · split at h
    · cases h
      exact ⟨_, rfl⟩
    · cases h
  · cases h
    exact ⟨_, rfl⟩

/-- All that a host statement can do: a write at the window and a move on, or a change of the host agent and
its reads alone. -/
theorem execStmt_next {st : Stmt} {s t : State} (h : execStmt st s = .next t) :
    (∃ r v, (st = .wr r v ∨ ∃ x, st = .wrVar r x ∧ v = getVar x s) ∧ t = nextLine (writeReg r v s)) ∨
    (∀ r v, st ≠ .wr r v) ∧ (∀ r x, st ≠ .wrVar r x) ∧ ∃ a rs, t = hostMoved a rs s := by
  cases st with
  | wr r v =>
    simp only [execStmt, stmtWrite, memWrite_regOffset] at h
    cases h
    exact .inl ⟨r, v, .inl rfl, rfl⟩
  | wrVar r x =>
    simp only [execStmt, stmtWrite, memWrite_regOffset] at h
    cases h
    exact .inl ⟨r, _, .inr ⟨x, rfl, rfl⟩, rfl⟩
  | rd x r =>
    refine .inr ⟨nofun, nofun, ?_⟩
    simp only [execStmt, stmtRead, memRead_regOffset] at h
    split at h
    · cases h
      exact ⟨_, _, rfl⟩
    · cases h
  | jb x b l | jnb x b l | jne x v l =>
    refine .inr ⟨nofun, nofun, ?_⟩
    obtain ⟨n, rfl⟩ := jumpIf_next h
    exact ⟨_, _, rfl⟩
  | set x v | xor x y | add x v | halt =>
    refine .inr ⟨nofun, nofun, ?_⟩
    cases h
    exact ⟨_, _, rfl⟩

/-- The four kinds of a step that answers a next state: a reset; a completion; a register write of a host; and a
quiet move, which changes at most the schedule, the host agent and the reads. -/
theorem step_next {s t : State} (h : step s = .next t) :
    (nextTurn s = some .reset ∧ t = platformReset (popTurn s)) ∨
    (nextTurn s = some .core ∧ s.busy = true ∧
      ∃ i, decodeFields s.pending.op s.pending.sel = some i ∧ exec i (popTurn s) = .next t) ∨
    (∃ r v a, nextWrite s = some (regOffset r, v) ∧ t = hostMoved a s.reads (writeReg r v (popTurn s))) ∨
    (nextWrite s = none ∧ nextTurn s ≠ some .reset ∧ (nextTurn s = some .core → s.busy = false) ∧
      ∃ a rs, t = hostMoved a rs (popTurn s)) := by
  unfold step takeTurn at h
  split at h
  · rename_i hn
    cases h
    exact .inl ⟨hn, rfl⟩
  · cases h
  · rename_i tn hnr hf hn
    cases tn with
    | reset => exact absurd rfl hnr
    | core =>
      simp only [runTurn, coreStep] at h
      split at h
      · rename_i hb
        split at h
        · rename_i i hi
          exact .inr (.inl ⟨hn, hb, i, hi, h⟩)
        · cases h
      · rename_i hb
        cases h
        refine .inr (.inr (.inr ⟨by simp [nextWrite, hn], by simp [hn], fun _ => by simpa using hb, ?_⟩))
        exact ⟨s.host, s.reads, rfl⟩
    | access op =>
      cases op with
      | read off w =>
        simp only [runTurn, accessOp] at h
        split at h
        · cases h
          refine .inr (.inr (.inr ⟨by simp [nextWrite, hn], by simp [hn], by simp [hn], ?_⟩))
          exact ⟨_, _, rfl⟩
        · cases h
      | write off w v =>
        simp only [runTurn, accessOp] at h
        split at h
        · rename_i t' ht
          cases h
          obtain ⟨ha, r, rfl, rfl⟩ := memWrite_ok ht
          refine .inr (.inr (.inl ⟨r, v, s.host, by simp [nextWrite, hn, ha], ?_⟩))
          obtain ⟨hh, hr, -⟩ := writeReg_others r v (popTurn s)
          rw [popTurn_host] at hh
          rw [popTurn_reads] at hr
          rw [← hh, ← hr]
          rfl
        · cases h
      | other => cases h
    | program =>
      simp only [runTurn, hostStep, currentStmt_popTurn] at h
      split at h
      · rename_i st hst
        rcases execStmt_next h with ⟨r, v, hv, rfl⟩ | ⟨hw, hx, a, rs, rfl⟩
        · obtain ⟨-, hr, -⟩ := writeReg_others r v (popTurn s)
          rw [popTurn_reads] at hr
          refine .inr (.inr (.inl ⟨r, v, (nextLine (writeReg r v (popTurn s))).host, ?_, by rw [← hr]; rfl⟩))
          rcases hv with rfl | ⟨x, rfl, rfl⟩ <;> simp [nextWrite, hn, hst]
        · refine .inr (.inr (.inr ⟨?_, by simp [hn], by simp [hn], a, rs, rfl⟩))
          simp only [nextWrite, hn, hst]
          cases st with
          | wr r v => exact absurd rfl (hw r v)
          | wrVar r x => exact absurd rfl (hx r x)
          | _ => rfl
      · cases h
        rename_i hst
        refine .inr (.inr (.inr ⟨by simp [nextWrite, hn, hst], by simp [hn], by simp [hn], _, _, rfl⟩))
  · rename_i hn
    cases h
    have hs : s.sched = [] := by
      unfold nextTurn at hn
      split at hn
      · cases hn
      · assumption
    refine .inr (.inr (.inr ⟨by simp [nextWrite, hn], by simp [hn], by simp [hn], s.host, s.reads, ?_⟩))
    show s = { s with sched := s.sched.tail }
    rw [hs, List.tail_nil, ← hs]

/-- A write of the next turn, if there is one, is not the core's move and not a reset. -/
theorem nextTurn_of_nextWrite {s : State} {p : Int × Word} (h : nextWrite s = some p) :
    nextTurn s ≠ some .core ∧ nextTurn s ≠ some .reset := by
  unfold nextWrite at h
  split at h <;> simp_all

/-- All that the boot writes of `launchNow` do to a half: those of the list are marked, and every value stays
(notes/assumptions/3). -/
theorem bootOperands_half (hs : List HalfId) (s : State) (h : HalfId) :
    (bootOperands hs s).half h = { val := (s.half h).val, written := (s.half h).written || decide (h ∈ hs) } := by
  induction hs generalizing s with
  | nil => simp [bootOperands]
  | cons h' hs ih =>
    rw [bootOperands, ih]
    by_cases he : h = h'
    · subst he
      simp [storeHalf]
    · simp [storeHalf, setHalf_half_of_ne he, he]

/-- The boot writes change no other field. -/
theorem bootOperands_others (hs : List HalfId) (s : State) :
    (bootOperands hs s).busy = s.busy ∧ (bootOperands hs s).err = s.err ∧ (bootOperands hs s).errcode = s.errcode ∧
      (bootOperands hs s).faults = s.faults ∧ (bootOperands hs s).host = s.host ∧
      (bootOperands hs s).reads = s.reads ∧ (bootOperands hs s).sched = s.sched := by
  induction hs generalizing s with
  | nil => exact ⟨rfl, rfl, rfl, rfl, rfl, rfl, rfl⟩
  | cons h hs ih =>
    rw [bootOperands]
    simpa [storeHalf] using ih (storeHalf h (s.half h).val s)

/-- A step that answers a next state is the step taken. -/
theorem advance_of_next {s t : State} (h : step s = .next t) : advance s = t := by simp [advance, h]

/-- A step that faults records its reason and changes nothing else (R188). -/
theorem advance_of_fault {s : State} {r : Fault} (h : step s = .fault r) : advance s = recordFault r s := by
  simp [advance, h]

/-- A refused turn leaves the schedule (notes/assumptions/7). -/
theorem advance_of_refused {s : State} {r : Refusal} (h : step s = .refused r) : advance s = popTurn s := by
  simp [advance, h]

/-- A step in an order that says so is the core's completion. -/
theorem step_core {s : State} {i : Instr} (hf : s.faults.reason? = none) (hn : nextTurn s = some .core)
    (hb : s.busy = true) (hi : decodeFields s.pending.op s.pending.sel = some i) :
    step s = exec i (popTurn s) := by
  simp [step, takeTurn, hf, hn, runTurn, coreStep, hb, hi]

end Sys2Proof.Machine
end

