-- ==== Sys2Proof/Laws/Cipher.lean ====
section
/-! SUPPORT. The parts of the algorithm, each said once: fields of a concatenation, the halves of a block
(spec/43_driver.md R161), the bytes of the parity step (spec/41_key_schedule.md R110), the lanes of the
substitution array (spec/42_feistel.md R142), and the rounds (R146, R162). -/

namespace Sys2Proof.Machine

/-- A field that lies in the low part of a concatenation. -/
theorem extract_append_right {n m : Nat} (a : BitVec n) (b : BitVec m) {k w : Nat} (h : k + w ≤ m) :
    (a ++ b).extractLsb' k w = b.extractLsb' k w := by
  apply BitVec.eq_of_getLsbD_eq
  intro i hi
  simp only [BitVec.getLsbD_extractLsb', BitVec.getLsbD_append, hi, decide_true, Bool.true_and]
  rw [if_pos (by omega)]

/-- A field that lies in the high part of a concatenation. -/
theorem extract_append_left {n m : Nat} (a : BitVec n) (b : BitVec m) {k w : Nat} (h : m ≤ k) :
    (a ++ b).extractLsb' k w = a.extractLsb' (k - m) w := by
  apply BitVec.eq_of_getLsbD_eq
  intro i hi
  simp only [BitVec.getLsbD_extractLsb', BitVec.getLsbD_append, hi, decide_true, Bool.true_and]
  rw [if_neg (by omega)]
  congr 1
  omega

/-- The field of all bits is the value. -/
theorem extract_full {n : Nat} (a : BitVec n) : a.extractLsb' 0 n = a := by
  apply BitVec.eq_of_getLsbD_eq
  intro i hi
  simp [hi]

@[simp] theorem leftHalf_append (a b : Word) : leftHalf (a ++ b : BitVec (32 + 32)) = a := by
  show BitVec.extractLsb' 32 32 (a ++ b) = a
  rw [extract_append_left a b (by omega)]
  exact extract_full a

@[simp] theorem rightHalf_append (a b : Word) : rightHalf (a ++ b : BitVec (32 + 32)) = b := by
  show BitVec.extractLsb' 0 32 (a ++ b) = b
  rw [extract_append_right a b (by omega)]
  exact extract_full b

/-- A block is its halves put together (R161). -/
theorem append_halves (b : Block) : (leftHalf b ++ rightHalf b : BitVec (32 + 32)) = b := by
  apply BitVec.eq_of_getLsbD_eq
  intro i hi
  rw [BitVec.getLsbD_append, leftHalf, rightHalf]
  split
  · simp [*]
  · rw [BitVec.getLsbD_extractLsb', show 32 + (i - 32) = i by omega]
    simp only [show i - 32 < 32 by omega, decide_true, Bool.true_and]

/-- The bytes of eight bytes put together. -/
theorem desByte_append (a b c d e f g h : BitVec 8) {i : Nat} (hi : i < 8) :
    desByte (a ++ b ++ c ++ d ++ e ++ f ++ g ++ h : BitVec (8 + 8 + 8 + 8 + 8 + 8 + 8 + 8)) i
      = [a, b, c, d, e, f, g, h].getD i 0 := by
  show BitVec.extractLsb' (56 - 8 * i) 8 (a ++ b ++ c ++ d ++ e ++ f ++ g ++ h) = _
  obtain rfl | rfl | rfl | rfl | rfl | rfl | rfl | rfl :
      i = 0 ∨ i = 1 ∨ i = 2 ∨ i = 3 ∨ i = 4 ∨ i = 5 ∨ i = 6 ∨ i = 7 := by omega
  all_goals
    repeat rw [extract_append_left _ _ (by omega)]
    first
      | exact extract_full _
      | exact (extract_append_right _ _ (by omega)).trans (extract_full _)

/-- Byte `i` of the parity step is the parity step of byte `i` (R110). -/
theorem desByte_parityFix (k : Block) {i : Nat} (hi : i < 8) :
    desByte (parityFix k) i = parityByte (desByte k i) := by
  refine (desByte_append _ _ _ _ _ _ _ _ hi).trans ?_
  obtain rfl | rfl | rfl | rfl | rfl | rfl | rfl | rfl :
      i = 0 ∨ i = 1 ∨ i = 2 ∨ i = 3 ∨ i = 4 ∨ i = 5 ∨ i = 6 ∨ i = 7 := by omega
  all_goals rfl

/-- The parity step of a byte: bits 7..1 stay, and the count of 1 bits is odd (R110). -/
theorem parityByte_spec (b : BitVec 8) :
    (parityByte b).extractLsb' 1 7 = b.extractLsb' 1 7 ∧ popcount (parityByte b) % 2 = 1 := by
  revert b
  decide +kernel

/-- A bit of a 64-bit value by its byte (R42). -/
theorem getLsbD_eq_desByte (k : Block) {n : Nat} (hn : n < 64) :
    k.getLsbD n = (desByte k (7 - n / 8)).getLsbD (n % 8) := by
  rw [desByte, BitVec.getLsbD_extractLsb']
  rw [show 56 - 8 * (7 - n / 8) + n % 8 = n by omega]
  simp [show n % 8 < 8 by omega]

/-- A 64-bit value is its bytes. -/
theorem eq_of_desByte_eq {a b : Block} (h : ∀ i, i < 8 → desByte a i = desByte b i) : a = b := by
  apply BitVec.eq_of_getLsbD_eq
  intro n hn
  rw [getLsbD_eq_desByte a hn, getLsbD_eq_desByte b hn, h _ (by omega)]

/-- The nibbles of eight nibbles put together. -/
theorem nibble_append (a b c d e f g h : BitVec 4) {i : Nat} (hi : i < 8) :
    BitVec.extractLsb' (28 - 4 * i) 4
        (a ++ b ++ c ++ d ++ e ++ f ++ g ++ h : BitVec (4 + 4 + 4 + 4 + 4 + 4 + 4 + 4))
      = [a, b, c, d, e, f, g, h].getD i 0 := by
  obtain rfl | rfl | rfl | rfl | rfl | rfl | rfl | rfl :
      i = 0 ∨ i = 1 ∨ i = 2 ∨ i = 3 ∨ i = 4 ∨ i = 5 ∨ i = 6 ∨ i = 7 := by omega
  all_goals
    repeat rw [extract_append_left _ _ (by omega)]
    first
      | exact extract_full _
      | exact (extract_append_right _ _ (by omega)).trans (extract_full _)

/-- Nibble `j` of the substitution array is lane `j` (R142). -/
theorem sboxArray_nibble (x : RoundKey) {j : Nat} (h1 : 1 ≤ j) (h8 : j ≤ 8) :
    (sboxArray x).extractLsb' (32 - 4 * j) 4 = sboxLane x j := by
  rw [show 32 - 4 * j = 28 - 4 * (j - 1) by omega]
  refine (nibble_append _ _ _ _ _ _ _ _ (i := j - 1) (by omega)).trans ?_
  obtain rfl | rfl | rfl | rfl | rfl | rfl | rfl | rfl :
      j = 1 ∨ j = 2 ∨ j = 3 ∨ j = 4 ∨ j = 5 ∨ j = 6 ∨ j = 7 ∨ j = 8 := by omega
  all_goals rfl

/-- The round undone (R146). -/
theorem desRound_inverse (lr : Word × Word) (k : RoundKey) :
    desRound ((desRound lr k).2, (desRound lr k).1) k = (lr.2, lr.1) := by
  simp [desRound]

/-- The rounds start again from where they stand. -/
theorem runRounds_append (ks ks' : List RoundKey) (lr : Word × Word) :
    runRounds (ks ++ ks') lr = runRounds ks' (runRounds ks lr) := by
  simp [runRounds, List.foldl_append]

/-- The number of pairs is the number of shifts. -/
theorem pairsFrom_length (shifts : List Nat) (c d : KeyHalf) : (pairsFrom shifts c d).length = shifts.length := by
  induction shifts generalizing c d with
  | nil => rfl
  | cons n shifts ih => simp [pairsFrom, ih]

/-- There are sixteen round keys (R117). -/
theorem keySchedule_length (key : Block) : (keySchedule key).length = 16 := by
  simp [keySchedule, keyPairs, pairsFrom_length, shiftSchedule]

/-- Round key `r` is PC-2 of pair `r` (R116). -/
theorem roundKey_eq_compressPair (key : Block) {r : Nat} (h1 : 1 ≤ r) (h16 : r ≤ 16) :
    roundKey key r = compressPair (keyPair key r) := by
  have hl : (keyPairs key).length = 16 := by simp [keyPairs, pairsFrom_length, shiftSchedule]
  rw [roundKey, keyPair, keySchedule, List.getD_eq_getElem _ _ (by simp [hl]; omega),
    List.getD_eq_getElem _ _ (by omega), List.getElem_map]

end Sys2Proof.Machine
end

