-- ==== Sys2Proof/Laws/Encoding.lean ====
section
/-! SUPPORT. The fields of a command word (spec/30_encoding.md R70), the number a command's word is (R78), and
what the decoder answers. -/

namespace Sys2Proof

/-- A word's number in terms of its fields (R70). -/
theorem toNat_eq_fields (w : Word) :
    w.toNat = 256 * (resField w).toNat + 16 * (opField w).toNat + (selField w).toNat := by
  simp only [resField, opField, selField, BitVec.extractLsb'_toNat, Nat.shiftRight_eq_div_pow]
  have := w.isLt
  omega

/-- A command word's number: `RES = 0`, `OP`, `SEL` (R70). -/
theorem toNat_encode (i : Instr) : (encode i).toNat = 16 * i.op.toNat + i.sel.toNat := by
  have : encode i = ((0#24 ++ i.op ++ i.sel : BitVec (24 + 4 + 4)) : BitVec 32) := rfl
  rw [this, BitVec.toNat_append, BitVec.toNat_append, ← Nat.shiftLeft_add_eq_or_of_lt i.sel.isLt,
    ← Nat.shiftLeft_add_eq_or_of_lt i.op.isLt]
  simp only [BitVec.toNat_ofNat, Nat.shiftLeft_eq]
  omega

/-- The three fields are determined by the word's number. -/
theorem fields_of_toNat {w : Word} {r o s : Nat} (h : w.toNat = 256 * r + 16 * o + s) (ho : o < 16) (hs : s < 16) :
    (resField w).toNat = r ∧ (opField w).toNat = o ∧ (selField w).toNat = s := by
  have := toNat_eq_fields w
  have := (opField w).isLt
  have := (selField w).isLt
  omega

@[simp] theorem resField_encode (i : Instr) : resField (encode i) = 0#24 := by
  have := fields_of_toNat (r := 0) (by simpa using toNat_encode i) i.op.isLt i.sel.isLt
  exact BitVec.eq_of_toNat_eq this.1

@[simp] theorem opField_encode (i : Instr) : opField (encode i) = i.op := by
  have := fields_of_toNat (r := 0) (by simpa using toNat_encode i) i.op.isLt i.sel.isLt
  exact BitVec.eq_of_toNat_eq this.2.1

@[simp] theorem selField_encode (i : Instr) : selField (encode i) = i.sel := by
  have := fields_of_toNat (r := 0) (by simpa using toNat_encode i) i.op.isLt i.sel.isLt
  exact BitVec.eq_of_toNat_eq this.2.2

/-- Two words with the same fields are one word (R70). -/
theorem word_ext {a b : Word} (hr : resField a = resField b) (ho : opField a = opField b)
    (hs : selField a = selField b) : a = b := by
  apply BitVec.eq_of_toNat_eq
  rw [toNat_eq_fields a, toNat_eq_fields b, hr, ho, hs]

/-- Decoding an encoded command goes by its fields alone. -/
theorem decode_encode_eq (i : Instr) : decode (encode i) = decodeFields i.op i.sel := by
  simp [decode]

end Sys2Proof
end

