-- ==== Sys2Proof/Laws/PerInstr.lean ====
section
/-! SUPPORT. A statement for all commands, made one command at a time: the word of a well-formed command is
legal (spec/30_encoding.md R73 for the words of R78), and `OP` and `SEL` alone make it. -/

namespace Sys2Proof.Laws.EncodeLegal

/-- The word of a well-formed command is legal, and has no bit above `OP` and `SEL`. -/
def Statement (i : Instr) : Prop :=
  i.wellFormed = true → legal (encode i) = true ∧ (encode i).toNat = 16 * i.op.toNat + i.sel.toNat

/-- An `SEL` operand `n` in 1..16 leaves the 4-bit field exactly `n - 1` (R72). -/
theorem toNat_sel {n : Nat} (h1 : 1 ≤ n) (h16 : n ≤ 16) : (BitVec.ofNat 4 (n - 1)).toNat = n - 1 := by
  rw [BitVec.toNat_ofNat]
  omega

theorem nop : Statement .nop := by unfold Statement; decide
theorem enc : Statement .enc := by unfold Statement; decide
theorem dec : Statement .dec := by unfold Statement; decide
theorem permIP : Statement .permIP := by unfold Statement; decide
theorem permFP : Statement .permFP := by unfold Statement; decide
theorem permPC1 : Statement .permPC1 := by unfold Statement; decide
theorem permPC2 : Statement .permPC2 := by unfold Statement; decide
theorem permE : Statement .permE := by unfold Statement; decide
theorem permP : Statement .permP := by unfold Statement; decide
theorem parity : Statement .parity := by unfold Statement; decide

theorem sbox (j : Nat) : Statement (.sbox j) := by
  intro h
  simp only [Instr.wellFormed, Bool.and_eq_true, decide_eq_true_eq] at h
  refine ⟨?_, toNat_encode _⟩
  have hsel : (Instr.sbox j).sel ≤ 7#4 := by
    rw [BitVec.le_def]
    simp only [Instr.sel]
    rw [toNat_sel h.1 (by omega)]
    show j - 1 ≤ 7
    omega
  simp [legal, hsel, Instr.op]

theorem rnd (r : Nat) : Statement (.rnd r) := fun _ => ⟨by simp [legal, Instr.op], toNat_encode _⟩
theorem rkey (r : Nat) : Statement (.rkey r) := fun _ => ⟨by simp [legal, Instr.op], toNat_encode _⟩
theorem kscd (r : Nat) : Statement (.kscd r) := fun _ => ⟨by simp [legal, Instr.op], toNat_encode _⟩

end Sys2Proof.Laws.EncodeLegal
end

