-- ==== Sys2Proof/Tests/Slice0.lean ====
section
/-! SUPPORT. Tests of the model. Every expected value comes from spec/95_test_vectors.md (its name is in the
comment) or is written out from the encoding rules of spec/30_encoding.md. The last part gives, for every
statement of Certificates/Slice0/Obligations.lean that has hypotheses, a state and operands that meet them. -/

namespace Sys2Proof.Tests

open Sys2Proof Sys2Proof.Machine

/-! ### Helpers -/

/-- A half with an accepted write in it. -/
def half (v : Word) : DataHalf := { val := v, written := true }

/-- The core from reset with `KEY` and `DIN` written. -/
def withKeyDin (key din : Block) : State :=
  { State.reset with
    keyHi := half (leftHalf key), keyLo := half (rightHalf key)
    dinHi := half (leftHalf din), dinLo := half (rightHalf din) }

/-- The core from reset with only `DIN_LO` written. -/
def withDinLo (v : Word) : State := { State.reset with dinLo := half v }

/-- A pending command. -/
def pendingOn (i : Instr) (s : State) : State :=
  { s with busy := true, pending := { op := i.op, sel := i.sel } }

/-- The operands of V-ENC-1. -/
def encState : State := withKeyDin 0x133457799BBCDFF1 0x0123456789ABCDEF

/-- The state an outcome gives, if it gives one. -/
def stateOf (o : Host.Outcome State Fault Refusal) : Option State :=
  match o with
  | .next t => some t
  | _ => none

/-- The fault an outcome is, if it is one. -/
def faultOf (o : Host.Outcome State Fault Refusal) : Option Fault :=
  match o with
  | .fault f => some f
  | _ => none

/-- The refusal an outcome is, if it is one. -/
def refusalOf (o : Host.Outcome State Fault Refusal) : Option Refusal :=
  match o with
  | .refused r => some r
  | _ => none

/-- `DOUT` after a completion, if it completes with both halves written, `BUSY = 0` and `DONE = 1`. -/
def doutOf (o : Host.Outcome State Fault Refusal) : Option Block :=
  match o with
  | .next t => if t.doutHi.written && t.doutLo.written && !t.busy && t.done then some t.dout else none
  | _ => none

/-- What `STATUS` reads as after an outcome. -/
def statusOf (o : Host.Outcome State Fault Refusal) : Option Word := (stateOf o).map statusWord

/-- The `STATUS` word after each write of a list of register writes. -/
def statusTrace (s : State) : List (Reg × Word) → List Word
  | [] => []
  | (r, v) :: ws => statusWord (writeReg r v s) :: statusTrace (writeReg r v s) ws

/-! ### WellFormed: each check refuses an ill-formed term -/

theorem test_sbox_operand_range :
    (Instr.sbox 0).wellFormed = false ∧ (Instr.sbox 9).wellFormed = false ∧ (Instr.sbox 8).wellFormed = true := by
  decide

theorem test_round_operand_range :
    ∀ f ∈ [Instr.rnd, Instr.rkey, Instr.kscd],
      (f 0).wellFormed = false ∧ (f 17).wellFormed = false ∧ (f 1).wellFormed = true ∧ (f 16).wellFormed = true := by
  decide

theorem test_stmt_bit_range :
    (Stmt.jb 0 32 7).wellFormed [7] = false ∧ (Stmt.jnb 0 32 7).wellFormed [7] = false ∧
      (Stmt.jb 0 31 7).wellFormed [7] = true := by
  decide

theorem test_stmt_unknown_label :
    (Stmt.jb 0 0 8).wellFormed [7] = false ∧ (Stmt.jnb 0 0 8).wellFormed [7] = false ∧
      (Stmt.jne 0 0 8).wellFormed [7] = false := by
  decide

theorem test_program_label_twice :
    programWellFormed [⟨[7], .halt⟩, ⟨[7], .halt⟩] = false ∧ programWellFormed [⟨[7], .halt⟩, ⟨[8], .halt⟩] = true ∧
      programWellFormed [⟨[7], .jb 0 0 9⟩] = false := by
  decide

/-- R74: the four kinds of illegal word. -/
theorem test_illegal_words :
    ([0x110, 0x80000010, 0x90, 0xF0, 0x01, 0x11, 0x21, 0x81, 0x36, 0x3F, 0x48, 0x4F].all
      fun w => !legal w && (decode w).isNone) = true := by
  decide

/-- R44: each of the three conditions of an admitted access. -/
theorem test_admitted :
    admitted 0 1 = false ∧ admitted 0 8 = false ∧ admitted 2 4 = false ∧ admitted 0x20 4 = false ∧
      admitted (-4) 4 = false ∧ admitted 0 4 = true ∧ admitted 0x1C 4 = true := by
  decide

theorem test_meanings_refuse_ill_formed :
    ∀ i ∈ [Instr.sbox 0, .sbox 9, .rnd 0, .rnd 17, .rkey 0, .rkey 17, .kscd 0, .kscd 17],
      refusalOf (exec i encState) = some .illFormedOperand := by
  decide +kernel

/-! ### Decode: words written out from R70 to R72 as `RES ‖ OP ‖ SEL` -/

theorem test_decode_nop : decode (0#24 ++ 0b0000#4 ++ 0b0000#4) = some .nop := by decide
theorem test_decode_enc : decode (0#24 ++ 0b0001#4 ++ 0b0000#4) = some .enc := by decide
theorem test_decode_dec : decode (0#24 ++ 0b0010#4 ++ 0b0000#4) = some .dec := by decide
theorem test_decode_perm :
    decode (0#24 ++ 0b0011#4 ++ 0b0000#4) = some .permIP ∧ decode (0#24 ++ 0b0011#4 ++ 0b0001#4) = some .permFP ∧
      decode (0#24 ++ 0b0011#4 ++ 0b0010#4) = some .permPC1 ∧
      decode (0#24 ++ 0b0011#4 ++ 0b0011#4) = some .permPC2 ∧
      decode (0#24 ++ 0b0011#4 ++ 0b0100#4) = some .permE ∧ decode (0#24 ++ 0b0011#4 ++ 0b0101#4) = some .permP := by
  decide
theorem test_decode_sbox :
    decode (0#24 ++ 0b0100#4 ++ 0b0000#4) = some (.sbox 1) ∧ decode (0#24 ++ 0b0100#4 ++ 0b0111#4) = some (.sbox 8) := by
  decide
theorem test_decode_rnd :
    decode (0#24 ++ 0b0101#4 ++ 0b0000#4) = some (.rnd 1) ∧ decode (0#24 ++ 0b0101#4 ++ 0b1111#4) = some (.rnd 16) := by
  decide
theorem test_decode_rkey :
    decode (0#24 ++ 0b0110#4 ++ 0b0001#4) = some (.rkey 2) ∧ decode (0#24 ++ 0b0110#4 ++ 0b1111#4) = some (.rkey 16) := by
  decide
theorem test_decode_kscd :
    decode (0#24 ++ 0b0111#4 ++ 0b1000#4) = some (.kscd 9) ∧ decode (0#24 ++ 0b0111#4 ++ 0b1111#4) = some (.kscd 16) := by
  decide
theorem test_decode_parity : decode (0#24 ++ 0b1000#4 ++ 0b0000#4) = some .parity := by decide

/-- R78's words. -/
theorem test_encode :
    encode .enc = 0x10 ∧ encode .permP = 0x35 ∧ encode (.sbox 8) = 0x47 ∧ encode (.rnd 16) = 0x5F ∧
      encode (.rkey 1) = 0x60 ∧ encode (.kscd 16) = 0x7F ∧ encode .parity = 0x80 := by
  decide

/-- The opcode table's "match" words, as the host asks for them. -/
theorem test_decodeTableWord :
    decodeTableWord 32 0x00000035 = some .permP ∧ decodeTableWord 32 0x00000036 = none ∧
      decodeTableWord 32 0x00000080 = some .parity ∧ decodeTableWord 8 0x147 = some (.sbox 8) := by
  decide

/-- Every row's word runs as the first command after reset, and the schedule is as it was. -/
theorem test_every_word_runs_after_reset :
    ∀ w ∈ [0x00, 0x10, 0x20, 0x30, 0x31, 0x32, 0x33, 0x34, 0x35, 0x40, 0x47, 0x50, 0x5F, 0x60, 0x6F, 0x70, 0x7F, 0x80],
      statusOf (step (State.reset.withFetchWord 32 w)) = some 0x2 ∧
        (stateOf (step (State.reset.withFetchWord 32 w))).map State.sched = some [] := by
  decide +kernel

/-! ### The commands: one or two vectors each -/

/-- V-NOP-1. -/
theorem test_nop_from_reset :
    statusOf (exec .nop (pendingOn .nop State.reset)) = some 0x2 ∧
      (stateOf (exec .nop (pendingOn .nop State.reset))).map (fun t => t.doutHi.written) = some false := by
  decide

/-- V-ENC-1. -/
theorem test_enc_v1 : doutOf (exec .enc encState) = some 0x85E813540F0AB405 := by decide +kernel

/-- V-ENC-2, another key. -/
theorem test_enc_v2 :
    doutOf (exec .enc (withKeyDin 0x0123456789ABCDEF 0x4E6F772069732074)) = some 0x3FA40E8A984D4815 := by
  decide +kernel

/-- V-DEC-1. -/
theorem test_dec_v1 :
    doutOf (exec .dec (withKeyDin 0x133457799BBCDFF1 0x85E813540F0AB405)) = some 0x0123456789ABCDEF := by
  decide +kernel

/-- V-DEC-4: not the ENC of the same block. -/
theorem test_dec_v4 : doutOf (exec .dec (withKeyDin 0x133457799BBCDFF1 0)) = some 0x9EFDFC5C2B5CD585 := by
  decide +kernel

/-- V-PERM-1, V-PERM-4. -/
theorem test_perm_ip :
    doutOf (exec .permIP (withKeyDin 0 0x0123456789ABCDEF)) = some 0xCC00CCFFF0AAF0AA ∧
      doutOf (exec .permIP (withKeyDin 0 0x8000000000000000)) = some 0x0000000001000000 := by
  decide +kernel

/-- V-PERM-32. -/
theorem test_perm_ip_unwritten : faultOf (exec .permIP (withDinLo 1)) = some .unwrittenRead := by decide

/-- V-PERM-7, V-PERM-10. -/
theorem test_perm_fp :
    doutOf (exec .permFP (withKeyDin 0 0x8000000000000000)) = some 0x0000000000000040 ∧
      doutOf (exec .permFP (withKeyDin 0 0x0A4CD99543423234)) = some 0x85E813540F0AB405 := by
  decide +kernel

/-- V-PERM-11, V-PERM-14. -/
theorem test_perm_pc1 :
    doutOf (exec .permPC1 (withKeyDin 0 0x133457799BBCDFF1)) = some 0x00F0CCAAF556678F ∧
      doutOf (exec .permPC1 (withKeyDin 0 0x0000000000000001)) = some 0 := by
  decide +kernel

/-- V-PERM-17, V-PERM-21. -/
theorem test_perm_pc2 :
    doutOf (exec .permPC2 (withKeyDin 0 0x00E19955FAACCF1E)) = some 0x00001B02EFFC7072 ∧
      doutOf (exec .permPC2 (withKeyDin 0 0xFF00000000000000)) = some 0 := by
  decide +kernel

/-- V-PERM-24, and V-PERM-26 with only `DIN_LO` written (V-PERM-31). -/
theorem test_perm_e :
    doutOf (exec .permE (withDinLo 0x80000000)) = some 0x0000400000000001 ∧
      doutOf (exec .permE (withDinLo 0x89ABCDEF)) = some 0x0000C53D57E5BF5F := by
  decide +kernel

/-- V-PERM-27, V-PERM-30. -/
theorem test_perm_p :
    doutOf (exec .permP (withDinLo 0x5C82B597)) = some 0x00000000234AA9BB ∧
      doutOf (exec .permP (withDinLo 0xFFFF0000)) = some 0x00000000C4C9D356 := by
  decide +kernel

/-- V-SBOX-2, read across S1 to S8: the row is the outer bits (V-SBOX-10). -/
theorem test_sbox_row :
    [1, 2, 3, 4, 5, 6, 7, 8].map (fun j => doutOf (exec (.sbox j) (withDinLo 0x01)))
      = [some 0x0, some 0x3, some 0xD, some 0xD, some 0xE, some 0xA, some 0xD, some 0x1] := by
  decide +kernel

/-- V-SBOX-8 read across, and V-SBOX-12's ignored bits. -/
theorem test_sbox_col :
    [1, 2, 3, 4, 5, 6, 7, 8].map (fun j => doutOf (exec (.sbox j) (withDinLo 0xFFFFFFDB)))
      = [some 0x5, some 0x9, some 0xB, some 0xA, some 0x9, some 0xB, some 0xF, some 0xE] := by
  decide +kernel

/-- V-RND-1, V-RND-6. -/
theorem test_rnd :
    doutOf (exec (.rnd 1) (withKeyDin 0x133457799BBCDFF1 0xCC00CCFFF0AAF0AA)) = some 0xF0AAF0AAEF4A6544 ∧
      doutOf (exec (.rnd 16) (withKeyDin 0x133457799BBCDFF1 0x0A4CD99543423234)) = some 0x43423234C28C960D := by
  decide +kernel

/-- V-RND-4: `P(Sarr(0))`. -/
theorem test_rnd_zero : doutOf (exec (.rnd 1) (withKeyDin 0 0)) = some 0x00000000D8D8DBBC := by decide +kernel

/-- V-KS-1, rounds 1, 9 and 16 of RKEY. -/
theorem test_rkey :
    [1, 9, 16].map (fun r => doutOf (exec (.rkey r) encState))
      = [some 0x00001B02EFFC7072, some 0x0000E0DBEBEDE781, some 0x0000CB3D8B0E17F5] := by
  decide +kernel

/-- V-KS-4: the parity bits do not matter, and V-KS-5's fault with only `KEY_HI` written. -/
theorem test_rkey_parity_and_fault :
    doutOf (exec (.rkey 1) (withKeyDin 0x0022446688AACCEE 0)) = some 0x00000B02679B49A5 ∧
      faultOf (exec (.rkey 1) { State.reset with keyHi := half 1 }) = some .unwrittenRead := by
  decide +kernel

/-- V-KS-1, rounds 1, 3, 9 and 16 of KSCD. -/
theorem test_kscd :
    [1, 3, 9, 16].map (fun r => doutOf (exec (.kscd r) encState))
      = [some 0x00E19955FAACCF1E, some 0x000CCAAFF56678F5, some 0x00557F8663C7AAB3, some 0x00F0CCAAF556678F] := by
  decide +kernel

/-- V-PAR-4, V-PAR-6, V-PAR-9. -/
theorem test_parity :
    [0xFFFFFFFFFFFFFFFF, 0x8000000000000000, 0x0022446688AACCEE].map
        (fun d => doutOf (exec .parity (withKeyDin 0 d)))
      = [some 0xFEFEFEFEFEFEFEFE, some 0x8001010101010101, some 0x0123456789ABCDEF] := by
  decide +kernel

/-! ### The host interface -/

/-- V-IF-1. -/
theorem test_if1_reset_values :
    memRead 0x1C 4 State.reset = .ok 0 ∧ memRead 0x18 4 State.reset = .ok 0 ∧
      memRead 0x10 4 State.reset = .error .unwrittenRead := by
  decide

/-- V-IF-2. -/
theorem test_if2_first_error_wins :
    statusTrace State.reset [(.cmd, 0x90), (.cmd, 0x110), (.status, 3), (.status, 4)] = [0x14, 0x14, 0x14, 0] := by
  decide +kernel

/-- V-IF-3, steps 1 to 4, and step 5's read. -/
theorem test_if3_writes_while_busy :
    statusTrace encState [(.cmd, 0x10), (.data .dinLo, 0), (.cmd, 0x36), (.data .doutHi, 0xFFFFFFFF)]
        = [0x01, 0x25, 0x25, 0x25] ∧
      memRead 0x0C 4 (writeReg (.data .dinLo) 0 (writeReg .cmd 0x10 encState)) = .ok 0x89ABCDEF := by
  decide +kernel

/-- V-IF-3, steps 6 and 7, from the state after step 2. -/
theorem test_if3_completion :
    let s := writeReg (.data .dinLo) 0 (writeReg .cmd 0x10 encState)
    doutOf (step s) = some 0x85E813540F0AB405 ∧ statusOf (step s) = some 0x26 ∧
      (stateOf (step s)).map (fun t => statusWord (writeReg .status 4 t)) = some 0x2 := by
  decide +kernel

/-- V-IF-4: an error on record does not block a command. -/
theorem test_if4_error_does_not_block :
    statusOf (step (writeReg .cmd 0x10 (writeReg .cmd 0x90 encState))) = some 0x16 := by
  decide +kernel

/-- V-IF-5. -/
theorem test_if5_bus_faults :
    ∀ op ∈ [HostOp.read 0x02 4, .read 0x20 4, .write 0x18 1 0x10, .read 0x00 8],
      faultOf (accessOp op encState) = some .busFault := by
  decide

/-- V-IF-6. -/
theorem test_if6_reset_while_busy :
    let t := platformReset (writeReg .cmd 0x10 encState)
    statusWord t = 0 ∧ memRead 0x10 4 t = .error .unwrittenRead ∧ nextTurn t = none := by
  decide +kernel

/-- V-IF-8: the old `KEY_LO` with the new `KEY_HI`. -/
theorem test_if8_stale_key_lo : (writeReg (.data .keyHi) 0 encState).key = 0x000000009BBCDFF1 := by decide +kernel

/-- R58: the host's order of two writes is the order of the schedule. -/
theorem test_schedule_order :
    (after 3 { State.reset with
        sched := [.access (.write 0x08 4 1), .access (.write 0x08 4 2), .access (.read 0x08 4)] }).reads = [2] := by
  decide +kernel

/-- Two small steps of P1: `set` and `jne` move the host's own program counter. -/
theorem test_host_statements :
    (after 2 (loadProgram [⟨[], .set 3 5⟩, ⟨[], .jne 3 4 9⟩, ⟨[], .halt⟩, ⟨[9], .halt⟩] State.reset)).host.pc = 3 := by
  decide +kernel

/-- R79's expansions, as the spec writes them. -/
theorem test_pseudo_instructions :
    (asmLdkey 0x0123456789ABCDEF).map (·.stmt)
        = [.wr (.data .keyHi) 0x01234567, .wr (.data .keyLo) 0x89ABCDEF] ∧
      (asmRun .enc 1 2).map (·.stmt) = [.wr .cmd 0x10, .rd 2 .status, .jb 2 0 1] ∧
      asmClrerr.map (·.stmt) = [.wr .status 4] := by
  decide +kernel

/-! ### Witnesses: states and operands that meet the hypotheses of the statements, clause by clause -/

/-- A register write that a host does next. -/
def writing (off : Int) (v : Word) (s : State) : State := { s with sched := .access (.write off 4 v) :: s.sched }

/-- The platform resets the core next. -/
def resetting (s : State) : State := { s with sched := .reset :: s.sched }

/-- A state with a fault on record. -/
def faulted : State := recordFault .busFault encState

/-- ENC pending on the operands of V-ENC-1, and the core's turn next. -/
def encPending : State := { pendingOn .enc encState with sched := [.core] }

/-- ENC pending, but a half it consumes was never written (V-IF-7). -/
def encHalfKey : State :=
  { pendingOn .enc encState with keyLo := .unwritten }

/-- The step answers a next state. -/
def steps (s : State) : Bool := (stateOf (step s)).isSome

theorem witness_DecodeOfEncodeIsTheCommand :
    (Instr.sbox 8).wellFormed = true ∧ (Instr.rnd 1).wellFormed = true ∧ (Instr.kscd 16).wellFormed = true := by
  decide

theorem witness_DecodedWordIsTheCommandsWord : decode 0x80#32 = some .parity ∧ decode 0x47#32 = some (.sbox 8) := by
  decide

theorem witness_StepRunsThePendingCommand :
    ∀ s ∈ [encPending, pendingOn .enc encState], s.faults = .empty ∧ s.busy = true ∧
      decodeFields s.pending.op s.pending.sel = some .enc ∧ (s.sched = [] ∨ s.sched.head? = some .core) := by
  decide +kernel

theorem witness_LaunchThenCompletionRunsTheCommand :
    ∃ s : State, ∃ rest, (Instr.rkey 16).wellFormed = true ∧ s.faults = .empty ∧ s.busy = false ∧
      s.sched = .access (.write 0x18 4 (encode (.rkey 16))) :: .core :: rest :=
  ⟨{ encState with sched := [.access (.write 0x18 4 (encode (.rkey 16))), .core] }, [], by decide⟩

theorem witness_PlacedWordRunsNext :
    (Instr.kscd 16).wellFormed = true ∧ State.reset.faults = .empty ∧ encPending.faults = .empty := by
  decide

theorem witness_OnlyAdmittedAccessesHaveAnEffect :
    (∀ p ∈ [((0 : Int), 8), (0, 1), (2, 4), (-4, 4), (0x20, 4)],
      ¬(p.2 = 4 ∧ p.1 % 4 = 0 ∧ 0 ≤ p.1 ∧ p.1 ≤ 0x1C)) ∧
    (∀ p ∈ [((0 : Int), 4), (0x1C, 4)], p.2 = 4 ∧ p.1 % 4 = 0 ∧ 0 ≤ p.1 ∧ p.1 ≤ 0x1C) := by
  decide

theorem witness_DataHalfReadGivesItsValue :
    ((0x00, State.keyHi) : Int × (State → DataHalf)).2 encState = half 0x13345779 ∧
      (encState.doutLo).written = false := by
  decide

theorem witness_OperandWriteStoresOrIsIgnored : encState.busy = false ∧ encPending.busy = true := by decide

theorem witness_CmdWriteLaunchesOrRaises :
    encPending.busy = true ∧ encState.busy = false ∧ legal 0x80 = true ∧ legal 0x81 = false := by
  decide

theorem witness_StatusWriteClearsTheError : (0x4#32).getLsbD 2 = true ∧ (0xFFFFFFFB#32).getLsbD 2 = false := by decide

/-- A step with a next state, for each clause of the rules over every step: idle and busy, a launch, an illegal
word, a forbidden write, a `STATUS` write, a completion and a reset. -/
theorem witness_rules_over_every_step :
    ([encState, writing 0x18 0x10 encState, writing 0x18 0x11 encState, writing 0x1C 4 encState,
        writing 0x08 7 encState, writing 0x08 7 (pendingOn .enc encState), writing 0x18 0 (pendingOn .enc encState),
        encPending, pendingOn .nop encState, resetting encState, resetting encPending].all steps) = true := by
  decide +kernel

theorem witness_BusyChangesOnlyAsStated :
    nextWrite (writing 0x18 0x10 encState) = some (0x18, 0x10) ∧ legal 0x10 = true ∧
      nextTurn encPending = some .core ∧ nextTurn (resetting encPending) = some .reset := by
  decide +kernel

theorem witness_FaultedStateIsStuck :
    (faulted.faults ≠ .empty ∧ nextTurn faulted ≠ some .reset) ∧
      ((resetting faulted).faults ≠ .empty ∧ nextTurn (resetting faulted) = some .reset) ∧
      faultOf (step encHalfKey) = some .unwrittenRead ∧ faultOf (step faulted) = some .busFault := by
  decide +kernel

theorem witness_ResetAbandonsThePendingCommand :
    (resetting encPending).faults = .empty ∧ (resetting encPending).sched = .reset :: .core :: [] := by
  decide

/-- The invariant in a state with a command pending, and its step. -/
theorem witness_EveryStepKeepsTheInvariant : Inv encPending ∧ steps encPending = true :=
  ⟨⟨by decide, by decide, by decide, by decide, by decide⟩, by decide +kernel⟩

theorem witness_EveryStepKeepsVariablesSorted :
    varsSorted [(1, 7), (4, 0)] ∧
      steps (setVar 4 0 (setVar 1 7 (loadProgram [⟨[], .xor 3 1⟩] State.reset))) = true := by
  refine ⟨by unfold varsSorted; decide, by decide +kernel⟩

/-- Two states that differ in what an unwritten half holds. -/
theorem witness_UnwrittenValuesNeverShow :
    sameButUnwritten encState { encState with doutHi := { val := 0xDEADBEEF, written := false } } ∧
      encState ≠ { encState with doutHi := { val := 0xDEADBEEF, written := false } } := by
  refine ⟨⟨fun h => by cases h <;> rfl, rfl, rfl, rfl, rfl, rfl, rfl, rfl, rfl, rfl⟩, by decide⟩

/-- Every half of `KEY` and `DIN` written: what the statements of ENC, DEC, PERM, PARITY, RND, RKEY, KSCD, SBOX and
of the ENC and DEC round trip ask of the state. -/
theorem witness_completions :
    encState.keyHi.written = true ∧ encState.keyLo.written = true ∧ encState.dinHi.written = true ∧
      encState.dinLo.written = true := by
  decide

/-- PERM.E, PERM.P and SBOX ask for `DIN_LO` alone. -/
theorem witness_completions_dinLo : (withDinLo 1).dinLo.written = true ∧ (withDinLo 1).dinHi.written = false := by
  decide

theorem witness_CommandFaultsExactlyOnUnwrittenOperands :
    (∀ i ∈ [Instr.nop, .enc, .dec, .rnd 16, .permIP, .permFP, .permPC1, .permPC2, .parity, .permE, .permP, .sbox 8,
        .rkey 1, .kscd 16], i.wellFormed = true) ∧
      (∃ h ∈ [HalfId.keyHi, .keyLo, .dinHi, .dinLo], (encHalfKey.half h).written = false) ∧
      (∀ h ∈ [HalfId.keyHi, .keyLo, .dinHi, .dinLo], (encState.half h).written = true) ∧
      (Instr.sbox 9).wellFormed = false := by
  decide

theorem witness_CompletionFrame :
    ([Instr.nop, .enc, .dec, .permIP, .permFP, .permPC1, .permPC2, .permE, .permP, .sbox 1, .rnd 1, .rkey 1, .kscd 1,
        .parity].all fun i => (stateOf (exec i encState)).isSome) = true := by
  decide +kernel

theorem witness_PermuteGathersOrFaults :
    (∀ k ∈ [4, 1, 1], 1 ≤ k ∧ k ≤ 4) ∧ (∃ k ∈ [0, 1], k < 1 ∨ 4 < k) ∧ (∃ k ∈ [5, 1], k < 1 ∨ 4 < k) := by
  decide

theorem witness_UniformInputsAreFixed : tableE.length = 48 ∧ ∀ k ∈ tableE, 1 ≤ k ∧ k ≤ 32 := by decide

/-- V-KS-4's two keys, and the boundary positions 1, 7, 57 and 63. -/
theorem witness_ParityBitsDoNotReachTheRoundKeys :
    ∀ p < 65, 1 ≤ p → p % 8 ≠ 0 →
      (0x0123456789ABCDEF : Block).getLsbD (64 - p) = (0x0022446688AACCEE : Block).getLsbD (64 - p) := by
  decide

theorem witness_RoundIsInvertible : desRound (3, 5) 0 = (5, 3 ^^^ feistel 5 0) := by decide +kernel

theorem witness_PendingCommandEventuallyCompletes : Inv encHalfKey ∧ Inv (pendingOn .enc encState) :=
  ⟨⟨by decide, by decide, by decide, by decide, by decide⟩, ⟨by decide, by decide, by decide, by decide, by decide⟩⟩

/-- ENC pending, then a read of `STATUS`, a forbidden write, the completion, and an illegal word: a read of `STATUS`
before the illegal word, and one after it, both see `BUSY = 0`. -/
theorem witness_PollingSeesTheLaunchedResult :
    let s := { pendingOn .enc encState with
      sched := [.access (.read 0x1C 4), .access (.write 0x08 4 0), .core, .access (.write 0x18 4 0x90)] }
    s.faults = .empty ∧ s.busy = true ∧ decodeFields s.pending.op s.pending.sel = some .enc ∧
      (∀ m < 4, nextTurn (after m s) ≠ some .reset) ∧ (∀ m < 3, (after m s).busy = true) ∧
      nextWrite (after 3 s) = some (0x18, 0x90) ∧ legal 0x90 = false ∧
      (statusWord (after 3 s)).getLsbD 0 = false ∧ (statusWord (after 4 s)).getLsbD 0 = false ∧
      accessOp (.read 0x1C 4) (after 3 s)
        = .next { after 3 s with reads := (after 3 s).reads ++ [statusWord (after 3 s)] } := by
  refine ⟨by decide, by decide, by decide, by decide +kernel, by decide +kernel, by decide +kernel, by decide,
    by decide +kernel, by decide +kernel, rfl⟩

theorem witness_HostAccessStatementsAreAccesses :
    memRead (regOffset .status) 4 encState = .ok 0 ∧
      memRead (regOffset (.data .doutHi)) 4 encState = .error .unwrittenRead := by
  decide

/-- A label that names exactly one line, at the end of the program, and one that names none. -/
theorem witness_HostJumpsFollowTheirCondition :
    (∀ m : Nat, (∃ ln : Line, [(⟨[], .jb 0 31 9⟩ : Line), ⟨[8, 9], .halt⟩][m]? = some ln ∧ 9 ∈ ln.labels) ↔ m = 1) ∧
      (∀ ln ∈ [(⟨[], .jb 0 31 9⟩ : Line), ⟨[8, 9], .halt⟩], 7 ∉ ln.labels) ∧
      (0x80000000 : Word).getLsbD 31 = true ∧ (0x7FFFFFFF : Word).getLsbD 31 = false := by
  refine ⟨fun m => ?_, by decide, by decide, by decide⟩
  match m with
  | 0 => simp
  | 1 => simp
  | m + 2 => simp

theorem witness_StepRunsTheTurnInHand :
    (∀ t ∈ [Turn.access (.read 0x1C 4), .program, .reset, .core],
      ({ encState with sched := [t] } : State).faults = .empty ∧
        ({ encState with sched := [t] } : State).sched = t :: []) ∧
      encPending.busy = true ∧ encState.busy = false ∧ encState.sched = [] ∧
      currentStmt (loadProgram [⟨[], .halt⟩] State.reset) = some .halt := by
  refine ⟨fun t _ => ⟨rfl, rfl⟩, by decide, by decide, by decide, by decide⟩

theorem witness_InstancesShareNoState :
    (Platform.mk [State.reset, encPending]).cores[1]? = some encPending ∧ (0 : Nat) ≠ 1 := by
  decide +kernel

end Sys2Proof.Tests
end

section
/-! PROOF. O59: which turn is in hand, and what a fault-free step makes of it (spec/20_memory.md R58). -/

namespace Sys2Proof.Machine

/-! ### The turn in hand -/

theorem nextTurn_of_sched_cons {s : State} {t : Turn} {rest : List Turn} (hs : s.sched = t :: rest) :
    nextTurn s = some t := by
  simp [nextTurn, hs]

theorem nextTurn_of_idle {s : State} (hs : s.sched = []) (hb : s.busy = false) :
    nextTurn s = if (currentStmt s).isSome then some .program else none := by
  simp [nextTurn, hs, hb]

theorem popTurn_of_sched_cons {s : State} {t : Turn} {rest : List Turn} (hs : s.sched = t :: rest) :
    popTurn s = { s with sched := rest } := by
  simp [popTurn, hs]

/-- An empty schedule has no turn to lose. -/
theorem popTurn_of_sched_nil {s : State} (hs : s.sched = []) : popTurn s = s := by
  rw [popTurn, hs, List.tail_nil, ← hs]

/-! ### The step that runs it -/

theorem reason?_of_eq_empty {f : FaultSet} (hf : f = .empty) : f.reason? = none := by
  rw [hf]
  rfl

theorem step_of_nextTurn {s : State} {t : Turn} (hf : s.faults = .empty) (hn : nextTurn s = some t) :
    step s = runTurn t (popTurn s) := by
  have hr := reason?_of_eq_empty hf
  cases t <;> simp [step, takeTurn, hr, hn]

theorem step_of_no_turn {s : State} (hf : s.faults = .empty) (hn : nextTurn s = none) : step s = .next s := by
  simp [step, takeTurn, reason?_of_eq_empty hf, hn]

theorem step_of_sched_cons {s : State} {t : Turn} {rest : List Turn} (hf : s.faults = .empty)
    (hs : s.sched = t :: rest) : step s = runTurn t { s with sched := rest } := by
  rw [step_of_nextTurn hf (nextTurn_of_sched_cons hs), popTurn_of_sched_cons hs]

/-- A host with no current statement leaves no turn to take, and its own move would be empty as well
(notes/assumptions/4 and 10). -/
theorem step_of_idle {s : State} (hf : s.faults = .empty) (hs : s.sched = []) (hb : s.busy = false) :
    step s = hostStep s := by
  have hn := nextTurn_of_idle hs hb
  cases hc : currentStmt s with
  | none =>
    rw [step_of_no_turn hf (by simp [hn, hc])]
    simp [hostStep, hc]
  | some st =>
    rw [step_of_nextTurn hf (t := .program) (by simp [hn, hc]), popTurn_of_sched_nil hs]
    rfl

/-! ### The core's move -/

theorem coreStep_of_busy {s : State} {i : Instr} (hb : s.busy = true)
    (hi : decodeFields s.pending.op s.pending.sel = some i) : coreStep s = exec i s := by
  simp [coreStep, hb, hi]

theorem coreStep_of_idle {s : State} (hb : s.busy = false) : coreStep s = .next s := by
  simp [coreStep, hb]

/-- Settles O59: the turn in hand is the head of the schedule (`step_of_sched_cons`), or the host's move where
an idle machine has an empty one (`step_of_idle`). -/
theorem stepRunsTheTurnInHand : Obligations.StepRunsTheTurnInHand := by
  intro s hf
  refine ⟨fun rest => ⟨fun op hs => ?access, fun hs => ?program, fun hs => ?reset, fun hs =>
    ⟨fun i hb hi => ?completion, fun hb => ?idleCore⟩⟩, fun hs hb => ?noSchedule⟩
  case access => exact step_of_sched_cons hf hs
  case program => exact step_of_sched_cons hf hs
  case reset => exact step_of_sched_cons hf hs
  case completion => exact (step_of_sched_cons hf hs).trans (coreStep_of_busy hb hi)
  case idleCore => exact (step_of_sched_cons hf hs).trans (coreStep_of_idle hb)
  case noSchedule => exact step_of_idle hf hs hb

end Sys2Proof.Machine
end

section
/-! PROOF. O28: what an unwritten half holds never shows in any step (spec/10_state.md R24; U1). Two states related
by `sameButUnwritten` are one state with its six halves replaced (`State.withHalves`), so an update that reads no half
keeps the relation because it commutes with the replacement (`sameButUnwritten.map`). -/

namespace Sys2Proof.Machine

/-! ### Outcomes that agree -/

/-- Two outcomes agree: related next states, the same fault, or the same refusal. -/
def OutcomesAgree : Host.Outcome State Fault Refusal → Host.Outcome State Fault Refusal → Prop
  | .next s, .next t => sameButUnwritten s t
  | .fault f, .fault g => f = g
  | .refused f, .refused g => f = g
  | _, _ => False

theorem outcomesAgree_next {s t : State} (h : sameButUnwritten s t) : OutcomesAgree (.next s) (.next t) := h

theorem outcomesAgree_fault (r : Fault) : OutcomesAgree (.fault r) (.fault r) := rfl

theorem outcomesAgree_refused (r : Refusal) : OutcomesAgree (.refused r) (.refused r) := rfl

/-! ### A state with its six data halves replaced -/

/-- The state with the data halves `k` in the place of its own. -/
def State.withHalves (s : State) (k : HalfId → DataHalf) : State :=
  { s with
    keyHi := k .keyHi
    keyLo := k .keyLo
    dinHi := k .dinHi
    dinLo := k .dinLo
    doutHi := k .doutHi
    doutLo := k .doutLo }

@[simp] theorem withHalves_half (s : State) (k : HalfId → DataHalf) (h : HalfId) : (s.withHalves k).half h = k h := by
  cases h <;> rfl

@[simp] theorem withHalves_self (s : State) : s.withHalves s.half = s := rfl

@[simp] theorem withHalves_busy (s : State) (k : HalfId → DataHalf) : (s.withHalves k).busy = s.busy := rfl
@[simp] theorem withHalves_pending (s : State) (k : HalfId → DataHalf) : (s.withHalves k).pending = s.pending := rfl
@[simp] theorem withHalves_faults (s : State) (k : HalfId → DataHalf) : (s.withHalves k).faults = s.faults := rfl
@[simp] theorem withHalves_host (s : State) (k : HalfId → DataHalf) : (s.withHalves k).host = s.host := rfl
@[simp] theorem withHalves_statusWord (s : State) (k : HalfId → DataHalf) :
    statusWord (s.withHalves k) = statusWord s := rfl
@[simp] theorem withHalves_getVar (x : Var) (s : State) (k : HalfId → DataHalf) :
    getVar x (s.withHalves k) = getVar x s := rfl
@[simp] theorem withHalves_currentStmt (s : State) (k : HalfId → DataHalf) :
    currentStmt (s.withHalves k) = currentStmt s := rfl
@[simp] theorem withHalves_nextTurn (s : State) (k : HalfId → DataHalf) :
    nextTurn (s.withHalves k) = nextTurn s := rfl

/-- Halves that are observed alike make related states. -/
theorem sameButUnwritten_withHalves {s : State} {k : HalfId → DataHalf}
    (hk : ∀ h, (s.half h).observed = (k h).observed) : sameButUnwritten s (s.withHalves k) :=
  ⟨by simpa using hk, rfl, rfl, rfl, rfl, rfl, rfl, rfl, rfl, rfl⟩

/-- Related states are one state with halves that are observed alike. -/
theorem sameButUnwritten.exists_withHalves {s t : State} (h : sameButUnwritten s t) :
    ∃ k, (∀ h, (s.half h).observed = (k h).observed) ∧ t = s.withHalves k := by
  cases t
  obtain ⟨hh, rfl, rfl, rfl, rfl, rfl, rfl, rfl, rfl, rfl⟩ := h
  exact ⟨_, hh, rfl⟩

theorem sameButUnwritten.refl (s : State) : sameButUnwritten s s :=
  sameButUnwritten_withHalves fun _ => rfl

/-- An update that commutes with replacing the halves keeps the relation. -/
theorem sameButUnwritten.map {f : State → State} (hf : ∀ s k, f (s.withHalves k) = (f s).withHalves k) {s t : State}
    (h : sameButUnwritten s t) : sameButUnwritten (f s) (f t) := by
  obtain ⟨k, hk, rfl⟩ := h.exists_withHalves
  have hhalf : ∀ h, (f s).half h = s.half h := fun h => by
    rw [← withHalves_self s, hf, withHalves_half, withHalves_self]
  rw [hf]
  exact sameButUnwritten_withHalves fun h => by rw [hhalf, hk]

/-- What reads no half answers the same on related states. -/
theorem sameButUnwritten.congr {α : Type} {f : State → α} (hf : ∀ s k, f (s.withHalves k) = f s) {s t : State}
    (h : sameButUnwritten s t) : f t = f s := by
  obtain ⟨k, -, rfl⟩ := h.exists_withHalves
  exact hf s k

/-! ### The halves of related states -/

theorem written_eq_observed_isSome (d : DataHalf) : d.written = d.observed.isSome := by
  cases hw : d.written <;> simp [DataHalf.observed, hw]

theorem val_eq_of_observed_eq {d e : DataHalf} (h : d.observed = e.observed) (hw : d.written = true) :
    d.val = e.val := by
  have he : e.written = true := by rw [written_eq_observed_isSome, ← h, ← written_eq_observed_isSome, hw]
  simpa [DataHalf.observed, hw, he] using h

/-- A read of a half goes by what is observed of it (R46, R47). -/
theorem readHalf_eq_observed (h : HalfId) (s : State) :
    readHalf h s = (s.half h).observed.elim (.error .unwrittenRead) .ok := by
  cases hw : (s.half h).written <;> simp [readHalf, DataHalf.observed, hw]

section Related
variable {s t : State} (h : sameButUnwritten s t)
include h

theorem sameButUnwritten.observed_eq (x : HalfId) : (s.half x).observed = (t.half x).observed := by
  obtain ⟨hh, -⟩ := h
  exact hh x

theorem sameButUnwritten.allWritten_eq (hs : List HalfId) : t.allWritten hs = s.allWritten hs := by
  simp only [State.allWritten, written_eq_observed_isSome, h.observed_eq]

theorem sameButUnwritten.readReg_eq (r : Reg) : readReg r t = readReg r s := by
  cases r with
  | data x => simp only [readReg, readHalf_eq_observed, h.observed_eq]
  | cmd => rfl
  | status => exact congrArg Except.ok (h.congr withHalves_statusWord)

theorem sameButUnwritten.setHalf (x : HalfId) (d : DataHalf) : sameButUnwritten (setHalf x d s) (setHalf x d t) := by
  obtain ⟨hh, hrest⟩ := h
  refine ⟨fun y => ?_, by simpa using hrest⟩
  by_cases hy : y = x
  · simp [hy]
  · simpa [setHalf_half_of_ne hy] using hh y

theorem sameButUnwritten.popTurn : sameButUnwritten (popTurn s) (popTurn t) := h.map fun _ _ => rfl

theorem sameButUnwritten.platformReset : sameButUnwritten (platformReset s) (platformReset t) := by
  rw [h.congr (f := Machine.platformReset) fun _ _ => rfl]
  exact .refl _

theorem sameButUnwritten.completedWith (b : Block) : sameButUnwritten (completedWith b s) (completedWith b t) := by
  have hstored := (h.setHalf .doutHi ⟨leftHalf b, true⟩).setHalf .doutLo ⟨rightHalf b, true⟩
  exact hstored.map (f := setCompleted) fun _ _ => rfl

theorem sameButUnwritten.raiseError (code : ErrorCode) : sameButUnwritten (raiseError code s) (raiseError code t) :=
  h.map fun _ _ => rfl

theorem sameButUnwritten.writeOperand (x : HalfId) (v : Word) :
    sameButUnwritten (writeOperand x v s) (writeOperand x v t) := by
  simp only [Machine.writeOperand, h.congr withHalves_busy]
  split
  · exact h.raiseError _
  · exact h.setHalf x _

theorem sameButUnwritten.writeCmd (w : Word) : sameButUnwritten (writeCmd w s) (writeCmd w t) := by
  simp only [Machine.writeCmd, h.congr withHalves_busy]
  split
  · exact h.raiseError _
  · split
    · exact h.map (f := fun s => setLaunched (opField w) (selField w) (clearDone s)) fun _ _ => rfl
    · exact h.map (f := fun s => Machine.raiseError .illegalCmd (clearDone s)) fun _ _ => rfl

theorem sameButUnwritten.writeStatus (v : Word) : sameButUnwritten (writeStatus v s) (writeStatus v t) := by
  simp only [Machine.writeStatus]
  split
  · exact h.map (f := clearError) fun _ _ => rfl
  · exact h

theorem sameButUnwritten.writeReg (r : Reg) (v : Word) : sameButUnwritten (writeReg r v s) (writeReg r v t) := by
  cases r with
  | data x =>
    cases x with
    | keyHi | keyLo | dinHi | dinLo => exact h.writeOperand _ v
    | doutHi | doutLo => exact h
  | cmd => exact h.writeCmd v
  | status => exact h.writeStatus v

end Related

/-! ### A command's result goes by the halves it consumes (R76) -/

theorem key_eq_halves (s : State) : s.key = (s.half .keyHi).val ++ (s.half .keyLo).val := rfl

theorem din_eq_halves (s : State) : s.din = (s.half .dinHi).val ++ (s.half .dinLo).val := rfl

/-- The low bits of `DIN` are those of `DIN_LO` (R42). -/
theorem setWidth_din (s : State) {n : Nat} (hn : n ≤ 32) : s.din.setWidth n = (s.half .dinLo).val.setWidth n :=
  BitVec.setWidth_append.trans (dif_pos hn)

theorem commandResult_congr {i : Instr} {s t : State} (hv : ∀ h ∈ consumed i, (s.half h).val = (t.half h).val) :
    commandResult i s.key s.din = commandResult i t.key t.din := by
  have hkey (hhi : HalfId.keyHi ∈ consumed i) (hlo : HalfId.keyLo ∈ consumed i) : s.key = t.key := by
    rw [key_eq_halves, key_eq_halves, hv _ hhi, hv _ hlo]
  have hdin (hhi : HalfId.dinHi ∈ consumed i) (hlo : HalfId.dinLo ∈ consumed i) : s.din = t.din := by
    rw [din_eq_halves, din_eq_halves, hv _ hhi, hv _ hlo]
  have hlow (hlo : HalfId.dinLo ∈ consumed i) {n : Nat} (hn : n ≤ 32) : s.din.setWidth n = t.din.setWidth n := by
    rw [setWidth_din s hn, setWidth_din t hn, hv _ hlo]
  cases i with
  | nop => simp only [commandResult]
  | enc | dec | rnd r =>
    simp only [commandResult, hkey (by simp [consumed]) (by simp [consumed]),
      hdin (by simp [consumed]) (by simp [consumed])]
  | permIP | permFP | permPC1 | permPC2 | parity =>
    simp only [commandResult, hdin (by simp [consumed]) (by simp [consumed])]
  | permE | permP | sbox j =>
    simp only [commandResult, hlow (by simp [consumed]) (show 32 ≤ 32 by decide),
      hlow (by simp [consumed]) (show 6 ≤ 32 by decide)]
  | rkey r | kscd r => simp only [commandResult, hkey (by simp [consumed]) (by simp [consumed])]

theorem sameButUnwritten.commandResult_eq {s t : State} (h : sameButUnwritten s t) {i : Instr}
    (hw : s.allWritten (consumed i) = true) : commandResult i s.key s.din = commandResult i t.key t.din :=
  commandResult_congr fun x hx => val_eq_of_observed_eq (h.observed_eq x) (List.all_eq_true.mp hw x hx)

/-! ### Moves of related states agree -/

section Outcomes
variable {s t : State} (h : sameButUnwritten s t)
include h

/-- A move that always answers, by an update that reads no half. -/
theorem sameButUnwritten.next_map {f : State → State} (hf : ∀ s k, f (s.withHalves k) = (f s).withHalves k) :
    OutcomesAgree (.next (f s)) (.next (f t)) := outcomesAgree_next (h.map hf)

theorem sameButUnwritten.exec (i : Instr) : OutcomesAgree (exec i s) (exec i t) := by
  by_cases hi : i.wellFormed = true
  · by_cases hn : i = .nop
    · subst hn
      exact h.next_map (f := setCompleted) fun _ _ => rfl
    · rw [exec_eq_completeWith hi hn, exec_eq_completeWith hi hn]
      have hwt := h.allWritten_eq (consumed i)
      by_cases hw : s.allWritten (consumed i) = true
      · rw [completeWith_written hw rfl, completeWith_written (hwt.trans hw) rfl, h.commandResult_eq hw]
        exact outcomesAgree_next (h.completedWith _)
      · rw [Bool.not_eq_true] at hw
        rw [completeWith_unwritten _ hw, completeWith_unwritten _ (hwt.trans hw)]
        exact outcomesAgree_fault _
  · rw [Bool.not_eq_true] at hi
    rw [exec_illFormed hi, exec_illFormed hi]
    exact outcomesAgree_refused _

theorem sameButUnwritten.coreStep : OutcomesAgree (coreStep s) (coreStep t) := by
  simp only [Machine.coreStep, h.congr withHalves_busy, h.congr withHalves_pending]
  split
  · split
    · exact h.exec _
    · exact outcomesAgree_refused _
  · exact outcomesAgree_next h

theorem sameButUnwritten.accessOp (op : HostOp) : OutcomesAgree (accessOp op s) (accessOp op t) := by
  cases op with
  | read off width =>
    by_cases ha : admitted off width = true
    · obtain ⟨rfl, r, rfl⟩ := regAt_of_admitted ha
      simp only [Machine.accessOp, memRead_regOffset, h.readReg_eq]
      cases readReg r s with
      | ok v => exact h.next_map (f := logRead v) fun _ _ => rfl
      | error f => exact outcomesAgree_fault f
    · simp only [Machine.accessOp, memRead_not_admitted (Bool.eq_false_iff.mpr ha)]
      exact outcomesAgree_fault _
  | write off width v =>
    by_cases ha : admitted off width = true
    · obtain ⟨rfl, r, rfl⟩ := regAt_of_admitted ha
      simp only [Machine.accessOp, memWrite_regOffset]
      exact outcomesAgree_next (h.writeReg r v)
    · simp only [Machine.accessOp, memWrite_not_admitted (Bool.eq_false_iff.mpr ha)]
      exact outcomesAgree_fault _
  | other => exact outcomesAgree_refused _

theorem sameButUnwritten.jumpIf (c : Bool) (l : Label) : OutcomesAgree (jumpIf c l s) (jumpIf c l t) := by
  simp only [Machine.jumpIf, h.congr withHalves_host]
  split
  · split
    · exact h.next_map (f := gotoLine _) fun _ _ => rfl
    · exact outcomesAgree_refused _
  · exact h.next_map (f := nextLine) fun _ _ => rfl

theorem sameButUnwritten.stmtWrite (r : Reg) (v : Word) : OutcomesAgree (stmtWrite r v s) (stmtWrite r v t) := by
  simp only [Machine.stmtWrite, memWrite_regOffset]
  exact (h.writeReg r v).next_map (f := nextLine) fun _ _ => rfl

theorem sameButUnwritten.stmtRead (x : Var) (r : Reg) : OutcomesAgree (stmtRead x r s) (stmtRead x r t) := by
  simp only [Machine.stmtRead, memRead_regOffset, h.readReg_eq]
  cases readReg r s with
  | ok v => exact h.next_map (f := fun s => nextLine (setVar x v (logRead v s))) fun _ _ => rfl
  | error f => exact outcomesAgree_fault f

theorem sameButUnwritten.execStmt (st : Stmt) : OutcomesAgree (execStmt st s) (execStmt st t) := by
  have hv (x : Var) : getVar x t = getVar x s := h.congr (withHalves_getVar x)
  cases st with
  | wr r v => exact h.stmtWrite r v
  | wrVar r x => simpa only [Machine.execStmt, hv] using h.stmtWrite r (getVar x s)
  | rd x r => exact h.stmtRead x r
  | jb x b l | jnb x b l | jne x v l => simpa only [Machine.execStmt, hv] using h.jumpIf _ l
  | set x v => exact h.next_map (f := fun s => nextLine (setVar x v s)) fun _ _ => rfl
  | xor x y => exact h.next_map (f := fun s => nextLine (setVar x (getVar x s ^^^ getVar y s) s)) fun _ _ => rfl
  | add x v => exact h.next_map (f := fun s => nextLine (setVar x (getVar x s + v) s)) fun _ _ => rfl
  | halt => exact h.next_map (f := stmtHalt) fun _ _ => rfl

theorem sameButUnwritten.hostStep : OutcomesAgree (hostStep s) (hostStep t) := by
  simp only [Machine.hostStep, h.congr withHalves_currentStmt]
  split
  · exact h.execStmt _
  · exact outcomesAgree_next h

theorem sameButUnwritten.runTurn (tn : Turn) : OutcomesAgree (runTurn tn s) (runTurn tn t) := by
  cases tn with
  | program => exact h.hostStep
  | access op => exact h.accessOp op
  | core => exact h.coreStep
  | reset => exact outcomesAgree_next h.platformReset

theorem sameButUnwritten.step : OutcomesAgree (step s) (step t) := by
  simp only [Machine.step, takeTurn, h.congr withHalves_faults, h.congr withHalves_nextTurn]
  split
  · exact h.popTurn.runTurn _
  · exact outcomesAgree_fault _
  · exact h.popTurn.runTurn _
  · exact outcomesAgree_next h

end Outcomes

/-- Settles O28: each turn on related states agrees (`sameButUnwritten.runTurn`), since a read and a completion
look at a half's value only under its mark. -/
theorem unwrittenValuesNeverShow : Obligations.UnwrittenValuesNeverShow :=
  fun _ _ h => h.step

end Sys2Proof.Machine
end

section
/-! PROOF. O17 to O21, O39: what a step changes, field by field. Each rule over every step is one case split along
`step_next` (a reset, a completion, a register write, a quiet move); here is what the middle two do to a field. -/

namespace Sys2Proof.Machine

/-! ### Completions -/

/-- All that a completion which answers a next state can do: `DOUT` is stored, unless the command is NOP, and the
flags are set (R80). -/
theorem exec_next_setCompleted {i : Instr} {s t : State} (h : exec i s = .next t) :
    i = .nop ∧ t = setCompleted s ∨ i ≠ .nop ∧ ∃ b, t = setCompleted (storeDout b s) := by
  obtain ⟨-, -, hnop | ⟨hi, ht⟩⟩ := exec_next h
  · exact .inl hnop
  · exact .inr ⟨hi, _, ht⟩

/-- Settles O39: a completion stores `DOUT` and sets the flags, and that is all (`exec_next_setCompleted`). -/
theorem completionFrame : Obligations.CompletionFrame := by
  intro i s t h
  obtain ⟨-, rfl⟩ | ⟨-, b, rfl⟩ := exec_next_setCompleted h <;> simp

theorem exec_busy_done {i : Instr} {s t : State} (h : exec i s = .next t) : t.busy = false ∧ t.done = true := by
  obtain ⟨-, rfl⟩ | ⟨-, b, rfl⟩ := exec_next_setCompleted h <;> simp

/-- NOP is the only command whose `OP` is 0 (R71). -/
theorem eq_nop_of_op_eq_zero {sel : BitVec 4} {i : Instr} (h : decodeFields 0 sel = some i) : i = .nop := by
  have hdec : decodeFields 0 sel = if sel.toNat = 0 then some .nop else none := rfl
  rw [hdec] at h
  split at h
  · exact (Option.some.inj h).symm
  · cases h

/-! ### Register writes -/

theorem regOffset_inj {r r' : Reg} : regOffset r = regOffset r' ↔ r = r' := by
  refine ⟨fun h => ?_, congrArg regOffset⟩
  have hr : some r = some r' := by rw [← regAt_regOffset, h, regAt_regOffset]
  exact Option.some.inj hr

theorem regOffset_eq_cmd {r : Reg} : regOffset r = 0x18 ↔ r = .cmd := regOffset_inj (r' := .cmd)

/-- The halves a host can write (R50). -/
def operandHalves : List HalfId := [.keyHi, .keyLo, .dinHi, .dinLo]

@[simp] theorem mem_operandHalves (x : HalfId) : x ∈ operandHalves ↔ x ≠ .doutHi ∧ x ≠ .doutLo := by
  cases x <;> decide

theorem writeReg_busy (r : Reg) (v : Word) (s : State) :
    (writeReg r v s).busy = true ↔ s.busy = true ∨ r = .cmd ∧ legal v = true := by
  rcases writeReg_cases r v s with ⟨_, _, _, hb, h⟩ | ⟨_, rfl, _, hb, h⟩ | ⟨_, rfl, _, h⟩ | ⟨_, hb, h⟩ |
    ⟨hr, _, hl, h⟩ | ⟨_, _, hl, h⟩ | ⟨hr, _, h⟩ | ⟨hr, _, h⟩ <;> rw [h] <;> simp [*]

theorem writeReg_done (r : Reg) (v : Word) (s : State) :
    (writeReg r v s).done = if r = .cmd ∧ s.busy = false then false else s.done := by
  rcases writeReg_cases r v s with ⟨_, _, _, hb, h⟩ | ⟨_, rfl, _, hb, h⟩ | ⟨_, rfl, _, h⟩ | ⟨_, hb, h⟩ |
    ⟨hr, hb, _, h⟩ | ⟨hr, hb, _, h⟩ | ⟨hr, _, h⟩ | ⟨hr, _, h⟩ <;> rw [h] <;> simp [*]

/-- A half takes the written word where it is an operand and the core is idle (R50, R51). -/
theorem writeReg_half (r : Reg) (v : Word) (s : State) (x : HalfId) :
    (writeReg r v s).half x =
      if r = .data x ∧ x ∈ operandHalves ∧ s.busy = false then { val := v, written := true } else s.half x := by
  rcases writeReg_cases r v s with ⟨_, _, _, hb, h⟩ | ⟨y, rfl, hy, hb, h⟩ | ⟨y, rfl, hy, h⟩ | ⟨hr, hb, h⟩ |
    ⟨hr, _, _, h⟩ | ⟨hr, _, _, h⟩ | ⟨hr, _, h⟩ | ⟨hr, _, h⟩ <;> rw [h]
  case inr.inl =>
    by_cases hx : x = y
    · subst hx
      simp [hb, (mem_operandHalves x).mp hy]
    · simp [setHalf_half_of_ne hx, Ne.symm hx]
  case inr.inr.inl =>
    rw [if_neg]
    rintro ⟨hxy, hx, -⟩
    cases hxy
    cases x <;> simp at hx hy
  all_goals simp [*]

/-- What becomes of `ERR` and `ERRCODE` in a register write (R50, R52, R53). -/
theorem writeReg_errorFlags (r : Reg) (v : Word) (s : State) :
    (r = .status ∧ v.getLsbD 2 = true ∧ (writeReg r v s).err = false ∧ (writeReg r v s).errcode = 0) ∨
    ((r = .cmd ∨ ∃ x ∈ operandHalves, r = .data x) ∧ s.busy = true ∧ (writeReg r v s).err = true ∧
      (writeReg r v s).errcode = if s.err = true then s.errcode else 2) ∨
    (r = .cmd ∧ s.busy = false ∧ legal v = false ∧ (writeReg r v s).err = true ∧
      (writeReg r v s).errcode = if s.err = true then s.errcode else 1) ∨
    ((writeReg r v s).err = s.err ∧ (writeReg r v s).errcode = s.errcode) := by
  rcases writeReg_cases r v s with ⟨x, hr, hx, hb, h⟩ | ⟨_, _, _, _, h⟩ | ⟨_, _, _, h⟩ | ⟨hr, hb, h⟩ |
    ⟨_, _, _, h⟩ | ⟨hr, hb, hl, h⟩ | ⟨hr, hv, h⟩ | ⟨_, _, h⟩ <;> rw [h]
  · exact .inr (.inl ⟨.inr ⟨x, hx, hr⟩, hb, rfl, rfl⟩)
  · exact .inr (.inr (.inr (by simp)))
  · exact .inr (.inr (.inr ⟨rfl, rfl⟩))
  · exact .inr (.inl ⟨.inl hr, hb, rfl, rfl⟩)
  · exact .inr (.inr (.inr ⟨rfl, rfl⟩))
  · exact .inr (.inr (.inl ⟨hr, hb, hl, rfl, rfl⟩))
  · exact .inl ⟨hr, hv, rfl, rfl⟩
  · exact .inr (.inr (.inr ⟨rfl, rfl⟩))

/-! ### The rules over every step -/

theorem nextWrite_of_reset {s : State} (hn : nextTurn s = some .reset) : nextWrite s = none := by
  simp [nextWrite, hn]

/-- Settles O17, by the four kinds of step. -/
theorem busyChangesOnlyAsStated : Obligations.BusyChangesOnlyAsStated := by
  intro s t h
  obtain ⟨hn, rfl⟩ | ⟨hn, hb, i, -, he⟩ | ⟨r, v, a, hw, rfl⟩ | ⟨hw, hnr, hnc, a, rs, rfl⟩ := step_next h
  · simp [hn, nextWrite_of_reset hn]
  · obtain ⟨htb, -⟩ := exec_busy_done he
    simp [hn, hb, htb]
  · obtain ⟨hnc, hnr⟩ := nextTurn_of_nextWrite hw
    have hcmd : (∃ w, nextWrite s = some (0x18, w) ∧ legal w = true) ↔ r = .cmd ∧ legal v = true := by
      simp [hw, regOffset_eq_cmd]
    refine ⟨fun hb => ?_, fun hb => ?_⟩
    · rw [hcmd, hostMoved_busy, writeReg_busy, popTurn_busy, hb]
      simp
    · have htb := (writeReg_busy r v (popTurn s)).mpr (.inl hb)
      simp [hnc, hnr, htb]
  · refine ⟨fun hb => by simp [hw, hb], fun hb => ?_⟩
    have hnc' : nextTurn s ≠ some .core := fun hn => by simp [hnc hn] at hb
    simp [hb, hnr, hnc']

/-- Settles O18, by the four kinds of step. -/
theorem doneChangesOnlyAsStated : Obligations.DoneChangesOnlyAsStated := by
  intro s t h
  obtain ⟨hn, rfl⟩ | ⟨hn, hb, i, -, he⟩ | ⟨r, v, a, hw, rfl⟩ | ⟨hw, hnr, hnc, a, rs, rfl⟩ := step_next h
  · simp [hn]
  · obtain ⟨-, htd⟩ := exec_busy_done he
    simp [hn, hb, htd]
  · obtain ⟨hnc, hnr⟩ := nextTurn_of_nextWrite hw
    have hcmd : (∃ w, nextWrite s = some (0x18, w)) ↔ r = .cmd := by simp [hw, regOffset_eq_cmd]
    rw [if_neg hnr, if_neg fun hn => hnc hn.1, hostMoved_done, writeReg_done, popTurn_busy, popTurn_done]
    simp only [hcmd]
  · have hcore : ¬(nextTurn s = some .core ∧ s.busy = true) := fun ⟨hn, hb⟩ => by simp [hnc hn] at hb
    simp [hnr, hcore, hw]

/-- Settles O19, by the four kinds of step; a write's part is `writeReg_errorFlags`. -/
theorem errorFlagsChangeOnlyAsStated : Obligations.ErrorFlagsChangeOnlyAsStated := by
  intro s t h
  obtain ⟨hn, rfl⟩ | ⟨-, -, i, -, he⟩ | ⟨r, v, a, hw, rfl⟩ | ⟨-, -, -, a, rs, rfl⟩ := step_next h
  · exact .inl ⟨hn, rfl, rfl⟩
  · obtain ⟨-, -, -, -, herr, hcode, -⟩ := completionFrame i _ t he
    exact .inr (.inr (.inr (.inr ⟨herr, hcode⟩)))
  · obtain ⟨rfl, hv, hflags⟩ | ⟨hr, hb, hflags⟩ | ⟨rfl, hb, hl, hflags⟩ | hflags :=
      writeReg_errorFlags r v (popTurn s)
    · exact .inr (.inl ⟨v, hw, hv, hflags⟩)
    · refine .inr (.inr (.inl ⟨_, v, hw, ?_, hb, hflags⟩))
      rcases hr with rfl | ⟨x, hx, rfl⟩
      · simp [regOffset]
      · cases x <;> simp [regOffset] at hx ⊢
    · exact .inr (.inr (.inr (.inl ⟨v, hw, hb, hl, hflags⟩)))
    · exact .inr (.inr (.inr (.inr hflags)))
  · exact .inr (.inr (.inr (.inr ⟨rfl, rfl⟩)))

/-- The rule of O20 for a half by its name. -/
theorem operand_step {s t : State} (h : step s = .next t) {x : HalfId} (hx : x ∈ operandHalves) :
    (nextTurn s = some .reset ∧ (t.half x).written = false) ∨
    (∃ v, nextWrite s = some (regOffset (.data x), v) ∧ s.busy = false ∧
      t.half x = { val := v, written := true }) ∨
    t.half x = s.half x := by
  obtain ⟨hn, rfl⟩ | ⟨-, -, i, -, he⟩ | ⟨r, v, a, hw, rfl⟩ | ⟨-, -, -, a, rs, rfl⟩ := step_next h
  · exact .inl ⟨hn, by cases x <;> rfl⟩
  · obtain ⟨hkh, hkl, hdh, hdl, -⟩ := completionFrame i _ t he
    refine .inr (.inr ?_)
    cases x with
    | keyHi => exact hkh
    | keyLo => exact hkl
    | dinHi => exact hdh
    | dinLo => exact hdl
    | doutHi | doutLo => simp at hx
  · rw [hostMoved_half, writeReg_half, popTurn_half, popTurn_busy]
    split
    · rename_i hc
      obtain ⟨rfl, -, hb⟩ := hc
      exact .inr (.inl ⟨v, hw, hb, rfl⟩)
    · exact .inr (.inr rfl)
  · exact .inr (.inr (by simp))

/-- Settles O20: `operand_step` at each of the four halves. -/
theorem operandsChangeOnlyByAcceptedWrites : Obligations.OperandsChangeOnlyByAcceptedWrites := by
  intro p hp s t h
  simp only [List.mem_cons, List.not_mem_nil, or_false] at hp
  rcases hp with rfl | rfl | rfl | rfl
  · exact operand_step h (x := .keyHi) (by decide)
  · exact operand_step h (x := .keyLo) (by decide)
  · exact operand_step h (x := .dinHi) (by decide)
  · exact operand_step h (x := .dinLo) (by decide)

/-- A register write leaves `DOUT` alone (R51). -/
theorem writeReg_dout (r : Reg) (v : Word) (s : State) :
    (writeReg r v s).doutHi = s.doutHi ∧ (writeReg r v s).doutLo = s.doutLo := by
  constructor
  · exact (writeReg_half r v s .doutHi).trans (if_neg (by simp))
  · exact (writeReg_half r v s .doutLo).trans (if_neg (by simp))

/-- Settles O21, by the four kinds of step. -/
theorem doutChangesOnlyByCompletion : Obligations.DoutChangesOnlyByCompletion := by
  intro s t h
  obtain ⟨hn, rfl⟩ | ⟨hn, hb, i, hi, he⟩ | ⟨r, v, a, -, rfl⟩ | ⟨-, -, -, a, rs, rfl⟩ := step_next h
  · exact .inl ⟨hn, rfl, rfl⟩
  · obtain ⟨-, rfl⟩ | ⟨hne, b, rfl⟩ := exec_next_setCompleted he
    · exact .inr (.inr ⟨rfl, rfl⟩)
    · have hop : s.pending.op ≠ 0 := fun h0 => hne (eq_nop_of_op_eq_zero (h0 ▸ hi))
      exact .inr (.inl ⟨hn, hb, hop, rfl, rfl⟩)
  · exact .inr (.inr (writeReg_dout r v (popTurn s)))
  · exact .inr (.inr ⟨rfl, rfl⟩)

end Sys2Proof.Machine
end

section
/-! PROOF. O23 to O26: the state after reset, and the invariant of the machine (spec/10_state.md R23, R28, R29, R35;
spec/20_memory.md R52; spec/70_reset_and_hazards.md R200, R201): each update of the model keeps `Inv`, hence every
step does. -/

namespace Sys2Proof.Machine

/-! ### Legal words decode -/

/-- A legal word's fields name a command (R73, R74). -/
theorem decodeFields_isSome_of_legal {w : Word} (h : legal w = true) :
    (decodeFields (opField w) (selField w)).isSome = true := by
  simp only [legal, Bool.and_eq_true, Bool.or_eq_true, beq_iff_eq, decide_eq_true_eq, BitVec.le_def,
    BitVec.toNat_ofNat] at h
  obtain ⟨-, hfields⟩ := h
  rcases hfields with (((((((⟨ho, hs⟩ | ⟨ho, hs⟩) | ⟨ho, hs⟩) | ⟨ho, hs⟩) | ⟨ho, hs⟩) | ho) | ho) | ho) | ⟨ho, hs⟩
  case inl.inl.inl.inl.inl.inr =>
    simp only [decodeFields, ho, BitVec.toNat_ofNat]
    generalize (selField w).toNat = n at hs
    interval_cases n <;> rfl
  case inl.inl.inl.inr | inl.inl.inr | inl.inr => simp [decodeFields, ho]
  all_goals simp [decodeFields, ho, hs]

/-! ### Updates that keep the invariant -/

section
variable {s : State} (h : Inv s)
include h

theorem Inv.popTurn : Inv (popTurn s) :=
  ⟨h.pendingNamesCommand, h.doneClearWhileBusy, h.errcodeWithErr, h.errcodeRaised, h.doutMarksAgree⟩

theorem Inv.hostMoved (a : HostAgent) (rs : List Word) : Inv (hostMoved a rs s) :=
  ⟨h.pendingNamesCommand, h.doneClearWhileBusy, h.errcodeWithErr, h.errcodeRaised, h.doutMarksAgree⟩

/-- Completion leaves the core idle, so the clauses about a pending command ask nothing (R80). -/
theorem Inv.setCompleted : Inv (setCompleted s) :=
  ⟨nofun, nofun, h.errcodeWithErr, h.errcodeRaised, h.doutMarksAgree⟩

theorem Inv.storeDout (b : Block) : Inv (storeDout b s) :=
  ⟨h.pendingNamesCommand, h.doneClearWhileBusy, h.errcodeWithErr, h.errcodeRaised, rfl⟩

theorem Inv.exec {i : Instr} {t : State} (he : exec i s = .next t) : Inv t := by
  obtain ⟨-, rfl⟩ | ⟨-, b, rfl⟩ := exec_next_setCompleted he
  · exact h.setCompleted
  · exact (h.storeDout b).setCompleted

theorem Inv.clearDone : Inv (clearDone s) :=
  ⟨h.pendingNamesCommand, fun _ => rfl, h.errcodeWithErr, h.errcodeRaised, h.doutMarksAgree⟩

/-- A launch of a legal word pends a command of the core, and `DONE` is already clear (R52). -/
theorem Inv.setLaunched {w : Word} (hl : legal w = true) (hd : s.done = false) :
    Inv (setLaunched (opField w) (selField w) s) :=
  ⟨fun _ => decodeFields_isSome_of_legal hl, fun _ => hd, h.errcodeWithErr, h.errcodeRaised, h.doutMarksAgree⟩

/-- The first error brings a nonzero code, and a later one keeps the code there is (R181, R182). -/
theorem Inv.recordError (code : ErrorCode) : Inv (recordError code s) := by
  refine ⟨h.pendingNamesCommand, h.doneClearWhileBusy, ?_, ?_, h.doutMarksAgree⟩
  all_goals rw [recordError_errcode]
  · have hcode : errorNumber code ≠ 0 := by cases code <;> decide
    by_cases he : s.err = true
    · simpa [he] using h.errcodeWithErr
    · simpa [he] using hcode
  · by_cases he : s.err = true
    · simpa [he] using h.errcodeRaised
    · cases code <;> simp [he, errorNumber]

theorem Inv.clearErrorFlags : Inv (clearErrorFlags s) :=
  ⟨h.pendingNamesCommand, h.doneClearWhileBusy, ⟨fun _ => rfl, fun _ => rfl⟩, .inl rfl, h.doutMarksAgree⟩

theorem Inv.setOperand {x : HalfId} (hx : x ∈ operandHalves) (d : DataHalf) : Inv (setHalf x d s) := by
  have hdout : (setHalf x d s).doutHi = s.doutHi ∧ (setHalf x d s).doutLo = s.doutLo := by
    cases x with
    | keyHi | keyLo | dinHi | dinLo => exact ⟨rfl, rfl⟩
    | doutHi | doutLo => simp at hx
  obtain ⟨hhi, hlo⟩ := hdout
  exact ⟨by simpa using h.pendingNamesCommand, by simpa using h.doneClearWhileBusy,
    by simpa using h.errcodeWithErr, by simpa using h.errcodeRaised, by rw [hhi, hlo, h.doutMarksAgree]⟩

theorem Inv.writeReg (r : Reg) (v : Word) : Inv (writeReg r v s) := by
  rcases writeReg_cases r v s with ⟨_, _, _, _, hw⟩ | ⟨x, _, hx, _, hw⟩ | ⟨_, _, _, hw⟩ | ⟨_, _, hw⟩ |
    ⟨_, _, hl, hw⟩ | ⟨_, _, _, hw⟩ | ⟨_, _, hw⟩ | ⟨_, _, hw⟩ <;> rw [hw]
  · exact h.recordError _
  · exact h.setOperand hx _
  · exact h
  · exact h.recordError _
  · exact h.clearDone.setLaunched hl rfl
  · exact h.clearDone.recordError _
  · exact h.clearErrorFlags
  · exact h

end

theorem inv_platformReset (s : State) : Inv (platformReset s) :=
  ⟨nofun, nofun, ⟨fun _ => rfl, fun _ => rfl⟩, .inl rfl, rfl⟩

/-- Settles O26, by the four kinds of step: each is made of updates that keep the invariant. -/
theorem everyStepKeepsTheInvariant : Obligations.EveryStepKeepsTheInvariant := by
  intro s t h hstep
  obtain ⟨-, rfl⟩ | ⟨-, -, i, -, he⟩ | ⟨r, v, a, -, rfl⟩ | ⟨-, -, -, a, rs, rfl⟩ := step_next hstep
  · exact inv_platformReset _
  · exact h.popTurn.exec he
  · exact (h.popTurn.writeReg r v).hostMoved a s.reads
  · exact h.popTurn.hostMoved a rs

/-! ### Reset -/

/-- Settles O25: the reset state is one that a reset leaves (`inv_platformReset`), and no variable is set yet. -/
theorem invariantHoldsAtReset : Obligations.InvariantHoldsAtReset :=
  ⟨inv_platformReset State.reset, .nil⟩

theorem platformReset_half_written (s : State) (x : HalfId) : ((platformReset s).half x).written = false := by
  cases x <;> rfl

/-- Settles O23: the reset state is one that a reset leaves, and `CMD` and `STATUS` read as R48 and R49 say. -/
theorem resetStateIsIdle : Obligations.ResetStateIsIdle := by
  refine ⟨rfl, rfl, rfl, rfl, platformReset_half_written State.reset, rfl, ?cmd, ?status⟩
  case cmd => exact memRead_regOffset .cmd _
  case status => exact memRead_regOffset .status _

/-- Settles O24: the core's turn after the reset finds the core idle (`coreStep_of_idle`). -/
theorem resetAbandonsThePendingCommand : Obligations.ResetAbandonsThePendingCommand := by
  intro s rest hf hs
  refine ⟨platformReset { s with sched := .core :: rest }, step_of_sched_cons hf hs, rfl, rfl, rfl, rfl,
    platformReset_half_written _, rfl, rfl, rfl, ?_⟩
  have hcore := step_of_sched_cons (s := platformReset { s with sched := .core :: rest }) hf rfl
  exact hcore.trans (coreStep_of_idle rfl)

end Sys2Proof.Machine
end

section
/-! PROOF. The fields of a command's word, said once for every command (spec/30_encoding.md R71 to R73). -/

namespace Sys2Proof

/-- The `SEL` of an operand in range gives the operand back (R72). -/
theorem toNat_sel_add_one {n : Nat} (h1 : 1 ≤ n) (h16 : n ≤ 16) : (BitVec.ofNat 4 (n - 1)).toNat + 1 = n := by
  rw [Laws.EncodeLegal.toNat_sel h1 h16, Nat.sub_add_cancel h1]

theorem operand_range {n k : Nat} (h : (decide (1 ≤ n) && decide (n ≤ k)) = true) : 1 ≤ n ∧ n ≤ k := by
  rwa [Bool.and_eq_true, decide_eq_true_eq, decide_eq_true_eq] at h

/-- The fields of a well-formed command name that command (R71, R72). -/
theorem decodeFields_op_sel {i : Instr} (hi : i.wellFormed = true) : decodeFields i.op i.sel = some i := by
  cases i with
  | nop | enc | dec | permIP | permFP | permPC1 | permPC2 | permE | permP | parity => rfl
  | sbox j =>
    obtain ⟨h1, h8⟩ := operand_range hi
    have hj := toNat_sel_add_one h1 (by omega)
    have hsel : (BitVec.ofNat 4 (j - 1)).toNat ≤ 7 := by omega
    exact (if_pos hsel).trans (congrArg (some ∘ Instr.sbox) hj)
  | rnd r =>
    obtain ⟨h1, h16⟩ := operand_range hi
    exact congrArg (some ∘ Instr.rnd) (toNat_sel_add_one h1 h16)
  | rkey r =>
    obtain ⟨h1, h16⟩ := operand_range hi
    exact congrArg (some ∘ Instr.rkey) (toNat_sel_add_one h1 h16)
  | kscd r =>
    obtain ⟨h1, h16⟩ := operand_range hi
    exact congrArg (some ∘ Instr.kscd) (toNat_sel_add_one h1 h16)

/-- Fields name a command only within its operand's range (R72, R74). -/
theorem wellFormed_of_decodeFields {op sel : BitVec 4} {i : Instr} (h : decodeFields op sel = some i) :
    i.wellFormed = true := by
  have hsel := sel.isLt
  unfold decodeFields at h
  repeat' split at h
  all_goals cases h
  all_goals simp [Instr.wellFormed]
  all_goals omega

/-- The word of every well-formed command is legal (R73). -/
theorem legal_encode {i : Instr} (hi : i.wellFormed = true) : legal (encode i) = true := by
  have hstatement : Laws.EncodeLegal.Statement i := by
    cases i with
    | nop => exact Laws.EncodeLegal.nop
    | enc => exact Laws.EncodeLegal.enc
    | dec => exact Laws.EncodeLegal.dec
    | permIP => exact Laws.EncodeLegal.permIP
    | permFP => exact Laws.EncodeLegal.permFP
    | permPC1 => exact Laws.EncodeLegal.permPC1
    | permPC2 => exact Laws.EncodeLegal.permPC2
    | permE => exact Laws.EncodeLegal.permE
    | permP => exact Laws.EncodeLegal.permP
    | sbox j => exact Laws.EncodeLegal.sbox j
    | rnd r => exact Laws.EncodeLegal.rnd r
    | rkey r => exact Laws.EncodeLegal.rkey r
    | kscd r => exact Laws.EncodeLegal.kscd r
    | parity => exact Laws.EncodeLegal.parity
  obtain ⟨hlegal, -⟩ := hstatement hi
  exact hlegal

end Sys2Proof
end

section
/-! PROOF. O8 to O15: one access at the window (spec/20_memory.md R44 to R53). An admitted access is one of the eight
registers' (`accessOp_write_regOffset`, `accessOp_read_of_ok`); each register's own rule says the rest. -/

namespace Sys2Proof.Machine

/-! ### One access -/

theorem accessOp_read (off : Int) (width : Nat) (s : State) :
    accessOp (.read off width) s = match memRead off width s with
      | .ok v => .next (logRead v s)
      | .error f => .fault f := rfl

theorem accessOp_write (off : Int) (width : Nat) (v : Word) (s : State) :
    accessOp (.write off width v) s = match memWrite off width v s with
      | .ok t => .next t
      | .error f => .fault f := rfl

theorem accessOp_read_of_ok {r : Reg} {s : State} {v : Word} (h : readReg r s = .ok v) :
    accessOp (.read (regOffset r) 4) s = .next (logRead v s) := by
  rw [accessOp_read, memRead_regOffset, h]

theorem accessOp_read_of_error {r : Reg} {s : State} {f : Fault} (h : readReg r s = .error f) :
    accessOp (.read (regOffset r) 4) s = .fault f := by
  rw [accessOp_read, memRead_regOffset, h]

theorem accessOp_write_regOffset (r : Reg) (v : Word) (s : State) :
    accessOp (.write (regOffset r) 4 v) s = .next (writeReg r v s) := by
  rw [accessOp_write, memWrite_regOffset]

section
variable {off : Int} {width : Nat} (ha : admitted off width = false)
include ha

theorem accessOp_read_not_admitted (s : State) : accessOp (.read off width) s = .fault .busFault := by
  rw [accessOp_read, memRead_not_admitted ha]

theorem accessOp_write_not_admitted (v : Word) (s : State) :
    accessOp (.write off width v) s = .fault .busFault := by
  rw [accessOp_write, memWrite_not_admitted ha]

end

/-! ### Reads of a register -/

theorem readHalf_of_written {x : HalfId} {s : State} (hw : (s.half x).written = true) :
    readHalf x s = .ok (s.half x).val :=
  if_pos hw

theorem readHalf_of_unwritten {x : HalfId} {s : State} (hw : (s.half x).written = false) :
    readHalf x s = .error .unwrittenRead :=
  if_neg (Bool.eq_false_iff.mp hw)

/-- `BUS_FAULT` is the window's fault, and no register's own (R46 to R49). -/
theorem readReg_ne_busFault (r : Reg) (s : State) : readReg r s ≠ .error .busFault := by
  cases r with
  | data x =>
    cases hw : (s.half x).written with
    | true => simp [readReg, readHalf_of_written hw]
    | false => simp [readReg, readHalf_of_unwritten hw]
  | cmd | status => exact nofun

/-- Settles O8: an admitted access is a register's (`regAt_of_admitted`), and any other faults. -/
theorem onlyAdmittedAccessesHaveAnEffect : Obligations.OnlyAdmittedAccessesHaveAnEffect := by
  intro s off width v
  rw [← admitted_iff, Bool.not_eq_true]
  refine ⟨fun ha => ⟨accessOp_read_not_admitted ha s, accessOp_write_not_admitted ha v s⟩, fun ha => ?admitted, rfl⟩
  case admitted =>
    obtain ⟨rfl, r, rfl⟩ := regAt_of_admitted ha
    refine ⟨?_, _, accessOp_write_regOffset r v s⟩
    cases hr : readReg r s with
    | ok w => simp [accessOp_read_of_ok hr]
    | error f =>
      rw [accessOp_read_of_error hr]
      rintro ⟨⟩
      exact readReg_ne_busFault r s hr

/-- The rule of O9 for a half by its name. -/
theorem accessOp_read_half (x : HalfId) (s : State) :
    ((s.half x).written = true → accessOp (.read (regOffset (.data x)) 4) s = .next (logRead (s.half x).val s)) ∧
    ((s.half x).written = false → accessOp (.read (regOffset (.data x)) 4) s = .fault .unwrittenRead) :=
  ⟨fun hw => accessOp_read_of_ok (readHalf_of_written hw), fun hw => accessOp_read_of_error (readHalf_of_unwritten hw)⟩

/-- Settles O9: `accessOp_read_half` at each of the six halves. -/
theorem dataHalfReadGivesItsValue : Obligations.DataHalfReadGivesItsValue := by
  intro p hp s
  simp only [List.mem_cons, List.not_mem_nil, or_false] at hp
  rcases hp with rfl | rfl | rfl | rfl | rfl | rfl
  · exact accessOp_read_half .keyHi s
  · exact accessOp_read_half .keyLo s
  · exact accessOp_read_half .dinHi s
  · exact accessOp_read_half .dinLo s
  · exact accessOp_read_half .doutHi s
  · exact accessOp_read_half .doutLo s

/-- Settles O10: `CMD`'s value is 0 in every state. -/
theorem cmdReadsZero : Obligations.CmdReadsZero :=
  fun _ => accessOp_read_of_ok (r := .cmd) rfl

theorem accessOp_read_status (s : State) : accessOp (.read 0x1C 4) s = .next (logRead (statusWord s) s) :=
  accessOp_read_of_ok (r := .status) rfl

/-! ### The word of `STATUS` (R49) -/

theorem getLsbD_statusWord (s : State) (b : Nat) :
    (statusWord s).getLsbD b =
      match b with
      | 0 => s.busy
      | 1 => s.done
      | 2 => s.err
      | 3 => false
      | n + 4 => s.errcode.getLsbD n := by
  have hbits : statusWord s
      = ((((s.errcode.concat false).concat s.err).concat s.done).concat s.busy).setWidth 32 := rfl
  rw [hbits, BitVec.getLsbD_setWidth]
  match b with
  | 0 | 1 | 2 | 3 => simp only [BitVec.getLsbD_concat_succ, BitVec.getLsbD_concat_zero]; rfl
  | n + 4 =>
    simp only [BitVec.getLsbD_concat_succ]
    by_cases hn : n < 4
    · rw [decide_eq_true (by omega), Bool.true_and]
    · rw [BitVec.getLsbD_of_ge _ n (by omega), Bool.and_false]

theorem statusWord_errcode (s : State) : (statusWord s).extractLsb' 4 4 = s.errcode := by
  apply BitVec.eq_of_getLsbD_eq
  intro b hb
  rw [BitVec.getLsbD_extractLsb', decide_eq_true hb, Nat.add_comm, getLsbD_statusWord, Bool.true_and]

theorem statusWord_above (s : State) {b : Nat} (hb : 8 ≤ b) : (statusWord s).getLsbD b = false := by
  obtain ⟨n, rfl⟩ := Nat.exists_eq_add_of_le' hb
  exact (getLsbD_statusWord s (n + 4 + 4)).trans (BitVec.getLsbD_of_ge _ _ (by omega))

/-- Settles O11: the word is `statusWord`, read bit by bit. -/
theorem statusReadShowsTheFlags : Obligations.StatusReadShowsTheFlags :=
  fun s => ⟨statusWord s, accessOp_read_status s, getLsbD_statusWord s 0, getLsbD_statusWord s 1,
    getLsbD_statusWord s 2, getLsbD_statusWord s 3, statusWord_errcode s, fun _ hb => statusWord_above s hb⟩

/-! ### Writes of a register -/

/-- While a command is pending, what it consumes and `CMD` cannot be written (R50, R52). -/
theorem writeReg_of_busy {r : Reg} {s : State} (hr : r = .cmd ∨ ∃ x ∈ operandHalves, r = .data x)
    (hb : s.busy = true) (v : Word) : writeReg r v s = recordError .busyWrite s := by
  obtain rfl | ⟨x, hx, rfl⟩ := hr
  · exact if_pos hb
  · cases x with
    | keyHi | keyLo | dinHi | dinLo => exact if_pos hb
    | doutHi | doutLo => simp at hx

theorem writeReg_operand_of_idle {x : HalfId} (hx : x ∈ operandHalves) {s : State} (hb : s.busy = false) (v : Word) :
    writeReg (.data x) v s = setHalf x { val := v, written := true } s := by
  have hidle : ¬s.busy = true := Bool.eq_false_iff.mp hb
  cases x with
  | keyHi | keyLo | dinHi | dinLo => exact if_neg hidle
  | doutHi | doutLo => simp at hx

theorem writeCmd_of_legal {w : Word} (hl : legal w = true) {s : State} (hb : s.busy = false) :
    writeCmd w s = setLaunched (opField w) (selField w) (clearDone s) := by
  simp [writeCmd, hb, hl]

theorem writeCmd_of_illegal {w : Word} (hl : legal w = false) {s : State} (hb : s.busy = false) :
    writeCmd w s = recordError .illegalCmd (clearDone s) := by
  simp [writeCmd, hb, hl, raiseError]

/-- The rule of O12 for a half by its name. -/
theorem accessOp_write_operand {x : HalfId} (hx : x ∈ operandHalves) (s : State) (v : Word) :
    (s.busy = false →
      accessOp (.write (regOffset (.data x)) 4 v) s = .next (setHalf x { val := v, written := true } s)) ∧
    (s.busy = true → accessOp (.write (regOffset (.data x)) 4 v) s = .next (recordError .busyWrite s)) := by
  rw [accessOp_write_regOffset]
  exact ⟨fun hb => congrArg _ (writeReg_operand_of_idle hx hb v),
    fun hb => congrArg _ (writeReg_of_busy (.inr ⟨x, hx, rfl⟩) hb v)⟩

/-- Settles O12: `accessOp_write_operand` at each of the four halves. -/
theorem operandWriteStoresOrIsIgnored : Obligations.OperandWriteStoresOrIsIgnored := by
  intro p hp s v
  simp only [List.mem_cons, List.not_mem_nil, or_false] at hp
  rcases hp with rfl | rfl | rfl | rfl
  · exact accessOp_write_operand (x := .keyHi) (by decide) s v
  · exact accessOp_write_operand (x := .keyLo) (by decide) s v
  · exact accessOp_write_operand (x := .dinHi) (by decide) s v
  · exact accessOp_write_operand (x := .dinLo) (by decide) s v

/-- Settles O13: a write of either half of `DOUT` is the identity (R51). -/
theorem doutWriteHasNoEffect : Obligations.DoutWriteHasNoEffect :=
  fun s v => ⟨accessOp_write_regOffset (.data .doutHi) v s, accessOp_write_regOffset (.data .doutLo) v s⟩

/-- Settles O14: the three branches of the launch. -/
theorem cmdWriteLaunchesOrRaises : Obligations.CmdWriteLaunchesOrRaises := by
  intro s w
  have haccess : accessOp (.write 0x18 4 w) s = .next (writeCmd w s) := accessOp_write_regOffset .cmd w s
  rw [haccess]
  exact ⟨fun hb => congrArg _ (writeReg_of_busy (.inl rfl) hb w), fun hb hl => congrArg _ (writeCmd_of_legal hl hb),
    fun hb hl => congrArg _ (writeCmd_of_illegal hl hb)⟩

/-- Settles O15: the two branches of a `STATUS` write. -/
theorem statusWriteClearsTheError : Obligations.StatusWriteClearsTheError := by
  intro s v
  have haccess : accessOp (.write 0x1C 4 v) s = .next (writeStatus v s) := accessOp_write_regOffset .status v s
  rw [haccess]
  exact ⟨fun hv => congrArg _ (if_pos hv), fun hv => congrArg _ (if_neg (Bool.eq_false_iff.mp hv))⟩

end Sys2Proof.Machine
end

section
/-! PROOF. O5 to O7: a launched command is the one that completes (spec/20_memory.md R52; spec/30_encoding.md R80). -/

namespace Sys2Proof.Machine

/-! ### The core's turn -/

theorem nextTurn_core {s : State} (hb : s.busy = true) (hs : s.sched = [] ∨ s.sched.head? = some .core) :
    nextTurn s = some .core := by
  rcases hs with hs | hs
  · simp [nextTurn, hs, hb]
  · obtain ⟨rest, hrest⟩ := List.head?_eq_some_iff.mp hs
    exact nextTurn_of_sched_cons hrest

/-- Settles O5: the turn in hand is the core's (`nextTurn_core`), and it finds the core busy. -/
theorem stepRunsThePendingCommand : Obligations.StepRunsThePendingCommand :=
  fun _ _ hf hb hi hs => step_core (reason?_of_eq_empty hf) (nextTurn_core hb hs) hb hi

/-! ### A command completes where its operands are written, and faults where one is not -/

theorem exists_exec_next {i : Instr} {s : State} (hi : i.wellFormed = true)
    (hw : s.allWritten (consumed i) = true) : ∃ t, exec i s = .next t := by
  by_cases hn : i = .nop
  · subst hn
    exact ⟨_, rfl⟩
  · rw [exec_eq_completeWith hi hn]
    exact ⟨_, completeWith_written hw rfl⟩

theorem exec_of_unwritten {i : Instr} {s : State} (hi : i.wellFormed = true)
    (hw : s.allWritten (consumed i) = false) : exec i s = .fault .unwrittenRead := by
  have hn : i ≠ .nop := by
    rintro rfl
    cases hw
  rw [exec_eq_completeWith hi hn, completeWith_unwritten _ hw]

/-! ### The launch -/

theorem writeCmd_encode {i : Instr} (hi : i.wellFormed = true) {s : State} (hb : s.busy = false) :
    writeCmd (encode i) s = setLaunched i.op i.sel (clearDone s) := by
  rw [writeCmd_of_legal (legal_encode hi) hb, opField_encode, selField_encode]

/-- Settles O6: the access launches the command's own fields (`writeCmd_encode`), and they name it again
(`decodeFields_op_sel`). -/
theorem launchThenCompletionRunsTheCommand : Obligations.LaunchThenCompletionRunsTheCommand := by
  intro s i rest hi hf hb hs launched
  constructor
  · calc step s = accessOp (.write 0x18 4 (encode i)) { s with sched := .core :: rest } := step_of_sched_cons hf hs
      _ = .next (writeCmd (encode i) { s with sched := .core :: rest }) := accessOp_write_regOffset .cmd _ _
      _ = .next launched := congrArg _ (writeCmd_encode hi hb)
  · exact (step_of_sched_cons (s := launched) hf rfl).trans (coreStep_of_busy rfl (decodeFields_op_sel hi))

/-! ### A word placed by `withFetchWord` (notes/assumptions/3) -/

theorem consumed_subset_operandHalves (i : Instr) : consumed i ⊆ operandHalves := by
  cases i <;> exact of_decide_eq_true rfl

/-- A half as the boot writes for command `i` leave it: a consumed half is marked, at the value it holds. -/
def bootHalf (i : Instr) (s : State) (x : HalfId) : DataHalf :=
  { val := (s.half x).val, written := (s.half x).written || decide (x ∈ consumed i) }

theorem bootHalf_dout {i : Instr} (s : State) {x : HalfId} (hx : x ∉ operandHalves) : bootHalf i s x = s.half x := by
  have hxi : x ∉ consumed i := fun h => hx (consumed_subset_operandHalves i h)
  simp [bootHalf, hxi]

theorem withHalves_setHalf (x : HalfId) (d : DataHalf) (s : State) (k : HalfId → DataHalf) :
    (setHalf x d s).withHalves k = s.withHalves k := by
  cases x <;> rfl

/-- The boot writes change halves only. -/
theorem withHalves_bootOperands (hs : List HalfId) (s : State) (k : HalfId → DataHalf) :
    (bootOperands hs s).withHalves k = s.withHalves k := by
  induction hs generalizing s with
  | nil => rfl
  | cons x hs ih => rw [bootOperands, ih, storeHalf, withHalves_setHalf]

theorem bootOperands_consumed (i : Instr) (s : State) :
    bootOperands (consumed i) s = s.withHalves (bootHalf i s) := by
  rw [← withHalves_bootOperands (consumed i) s, show bootHalf i s = (bootOperands (consumed i) s).half from
    funext fun x => (bootOperands_half (consumed i) s x).symm, withHalves_self]

/-- The state whose completion is the next step, once `withFetchWord` has placed the command `i`. -/
def bootLaunched (i : Instr) (s : State) : State :=
  setLaunched i.op i.sel (clearDone (s.withHalves (bootHalf i s)))

theorem withFetchWord_encode {i : Instr} (hi : i.wellFormed = true) (s : State) :
    s.withFetchWord 32 (encode i).toNat = { bootLaunched i s with sched := .core :: s.sched } := by
  have hword : BitVec.ofNat 32 ((encode i).toNat % 2 ^ 32) = encode i := by
    rw [Nat.mod_eq_of_lt (encode i).isLt, BitVec.ofNat_toNat, BitVec.setWidth_eq]
  have hdecode : decode (encode i) = some i := by rw [decode_encode_eq, decodeFields_op_sel hi]
  have hlaunch : writeCmd (encode i) (bootOperands (consumed i) { s with busy := false }) = bootLaunched i s := by
    rw [bootOperands_consumed]
    exact writeCmd_encode hi rfl
  simp only [State.withFetchWord, launchNow, hword, hdecode, Option.elim_some, hlaunch]
  rfl

theorem exists_exec_bootLaunched {i : Instr} (hi : i.wellFormed = true) (s : State) :
    ∃ t, exec i (bootLaunched i s) = .next t := by
  refine exists_exec_next hi (List.all_eq_true.mpr fun x hx => ?_)
  have hhalf : (bootLaunched i s).half x = bootHalf i s x := by cases x <;> rfl
  rw [hhalf]
  exact Bool.or_eq_true_iff.mpr (.inr (decide_eq_true hx))

/-- Settles O7: the very next turn is the core's, on `bootLaunched`; its operands are written, and a completion
leaves them alone (O39). -/
theorem placedWordRunsNext : Obligations.PlacedWordRunsNext := by
  intro s i hi hf marked launched
  have hlaunched : bootLaunched i s = launched := by
    have hhi : bootHalf i s .doutHi = s.doutHi := bootHalf_dout s (by simp)
    have hlo : bootHalf i s .doutLo = s.doutLo := bootHalf_dout s (by simp)
    calc bootLaunched i s = { launched with doutHi := bootHalf i s .doutHi, doutLo := bootHalf i s .doutLo } := rfl
      _ = launched := by rw [hhi, hlo]
  rw [withFetchWord_encode hi, ← hlaunched]
  constructor
  · exact (step_of_sched_cons (s := { bootLaunched i s with sched := .core :: s.sched }) hf rfl).trans
      (coreStep_of_busy rfl (decodeFields_op_sel hi))
  · obtain ⟨t, ht⟩ := exists_exec_bootLaunched hi s
    obtain ⟨hbusy, hdone⟩ := exec_busy_done ht
    obtain ⟨hkh, hkl, hdh, hdl, -, -, -, -, -, -, hsched⟩ := completionFrame i _ t ht
    refine ⟨t, ht, hbusy, hdone, hsched, ?_, ?_, ?_, ?_⟩
    · exact (congrArg DataHalf.val hkh).trans rfl
    · exact (congrArg DataHalf.val hkl).trans rfl
    · exact (congrArg DataHalf.val hdh).trans rfl
    · exact (congrArg DataHalf.val hdl).trans rfl

end Sys2Proof.Machine
end

section
/-! PROOF. O53, O54: a pending command completes, and a host that polls `STATUS` finds its result
(spec/20_memory.md R55, R58, R59; spec/70_reset_and_hazards.md R209). -/

namespace Sys2Proof.Machine

/-! ### One turn of a run -/

theorem recordFault_faults_ne_empty (r : Fault) (s : State) : (recordFault r s).faults ≠ .empty := by
  cases r <;> simp [FaultSet.insert, FaultSet.empty]

/-- Every step that answers takes one turn off the schedule. -/
theorem step_next_sched {s t : State} (h : step s = .next t) : t.sched = s.sched.tail := by
  obtain ⟨-, rfl⟩ | ⟨-, -, i, -, he⟩ | ⟨r, v, a, -, rfl⟩ | ⟨-, -, -, a, rs, rfl⟩ := step_next h
  · rfl
  · obtain ⟨-, -, -, -, -, -, -, -, -, -, hsched⟩ := completionFrame i _ t he
    exact hsched
  · obtain ⟨-, -, hsched, -⟩ := writeReg_others r v (popTurn s)
    exact hsched
  · rfl

/-- What `advance` makes of the three outcomes of a step. -/
theorem advance_cases (s : State) :
    step s = .next (advance s) ∨ (∃ r, advance s = recordFault r s) ∨ advance s = popTurn s := by
  cases h : step s with
  | next t => exact .inl (congrArg _ (advance_of_next h).symm)
  | fault r => exact .inr (.inl ⟨r, advance_of_fault h⟩)
  | refused r => exact .inr (.inr (advance_of_refused h))

/-- The step of a pending command completes it or faults: it is never refused. -/
theorem advance_completes {s : State} (h : Inv s) (hf : s.faults = .empty) (hb : s.busy = true) (hs : s.sched = []) :
    (advance s).busy = false ∨ (advance s).faults ≠ .empty := by
  obtain ⟨i, hi⟩ := Option.isSome_iff_exists.mp (h.pendingNamesCommand hb)
  have hstep : step s = exec i (popTurn s) := stepRunsThePendingCommand s i hf hb hi (.inl hs)
  cases hw : (popTurn s).allWritten (consumed i) with
  | true =>
    obtain ⟨t, ht⟩ := exists_exec_next (wellFormed_of_decodeFields hi) hw
    obtain ⟨hbusy, -⟩ := exec_busy_done ht
    exact .inl (by rw [advance_of_next (hstep.trans ht), hbusy])
  | false =>
    have hfault := advance_of_fault (hstep.trans (exec_of_unwritten (wellFormed_of_decodeFields hi) hw))
    exact .inr (by rw [hfault]; exact recordFault_faults_ne_empty _ s)

/-- A turn that records no fault leaves the schedule, and keeps the invariant. -/
theorem advance_takes_turn {s : State} (h : Inv s) (hf : (advance s).faults = .empty) :
    Inv (advance s) ∧ (advance s).sched = s.sched.tail := by
  obtain hnext | ⟨r, hfault⟩ | hrefused := advance_cases s
  · exact ⟨everyStepKeepsTheInvariant s _ h hnext, step_next_sched hnext⟩
  · rw [hfault] at hf
    exact absurd hf (recordFault_faults_ne_empty r s)
  · rw [hrefused]
    exact ⟨h.popTurn, rfl⟩

/-- Settles O53, by induction on the schedule: each turn leaves it, and where it is empty the core's turn comes
(`advance_completes`). -/
theorem pendingCommandEventuallyCompletes : Obligations.PendingCommandEventuallyCompletes := by
  intro s h
  induction hs : s.sched generalizing s with
  | nil =>
    by_cases hstop : s.busy = false ∨ s.faults ≠ .empty
    · exact ⟨0, Nat.zero_le _, hstop⟩
    · rw [not_or, Bool.not_eq_false, not_not] at hstop
      obtain ⟨hb, hf⟩ := hstop
      exact ⟨1, Nat.le_refl 1, advance_completes h hf hb hs⟩
  | cons t rest ih =>
    by_cases hf : (advance s).faults = .empty
    · obtain ⟨hinv, hsched⟩ := advance_takes_turn h hf
      obtain ⟨n, hn, hstop⟩ := ih (advance s) hinv (by rw [hsched, hs, List.tail_cons])
      exact ⟨n + 1, by simpa using hn, hstop⟩
    · exact ⟨1, by simp, .inr hf⟩

/-! ### A launched command, from its launch to its completion -/

theorem after_succ (n : Nat) (s : State) : after (n + 1) s = advance (after n s) := by
  induction n generalizing s with
  | zero => rfl
  | succ n ih => exact ih (advance s)

/-- The command pending at `s` is still pending at `u`, and every half is what it was (R50, R59). -/
def StillPending (s u : State) : Prop :=
  u.busy = true ∧ u.pending = s.pending ∧ ∀ x, u.half x = s.half x

/-- The core is idle at `u`, and `DOUT` is what the completion of `i` at `s` leaves. -/
def HoldsResult (i : Instr) (s u : State) : Prop :=
  u.busy = false ∧ ∃ t, exec i s = .next t ∧ u.doutHi = t.doutHi ∧ u.doutLo = t.doutLo

/-- A completion goes by the data halves alone. -/
theorem exec_dout_of_halves_eq {i : Instr} {s u t : State} (hh : ∀ x, u.half x = s.half x) (he : exec i u = .next t) :
    ∃ t', exec i s = .next t' ∧ t.doutHi = t'.doutHi ∧ t.doutLo = t'.doutLo := by
  have hkey : u.key = s.key := by simp only [key_eq_halves, hh]
  have hdin : u.din = s.din := by simp only [din_eq_halves, hh]
  have hwritten : u.allWritten (consumed i) = s.allWritten (consumed i) := by simp only [State.allWritten, hh]
  obtain ⟨hi, hw, ⟨rfl, rfl⟩ | ⟨hn, rfl⟩⟩ := exec_next he
  · exact ⟨_, rfl, hh .doutHi, hh .doutLo⟩
  · rw [hwritten] at hw
    rw [exec_eq_completeWith hi hn, hkey, hdin]
    exact ⟨_, completeWith_written hw rfl, rfl, rfl⟩

theorem writeReg_pending_of_busy {s : State} (hb : s.busy = true) (r : Reg) (v : Word) :
    (writeReg r v s).pending = s.pending := by
  rcases writeReg_cases r v s with ⟨_, _, _, _, h⟩ | ⟨_, _, _, _, h⟩ | ⟨_, _, _, h⟩ | ⟨_, _, h⟩ | ⟨_, hidle, _, h⟩ |
    ⟨_, _, _, h⟩ | ⟨_, _, h⟩ | ⟨_, _, h⟩ <;> rw [h]
  case inr.inr.inr.inr.inl => simp [hb] at hidle
  all_goals simp

/-- A write while busy leaves the pending command and its operands alone (R50, R52). -/
theorem StillPending.writeReg {s u : State} (h : StillPending s u) (r : Reg) (v : Word) :
    StillPending s (writeReg r v u) := by
  obtain ⟨hb, hp, hh⟩ := h
  refine ⟨(writeReg_busy r v u).mpr (.inl hb), (writeReg_pending_of_busy hb r v).trans hp, fun x => ?_⟩
  rw [writeReg_half, if_neg (by simp [hb]), hh]

/-- A pending command meets its completion or stays pending, unless a reset takes it. -/
theorem StillPending.advance {s u : State} {i : Instr} (h : StillPending s u)
    (hi : decodeFields s.pending.op s.pending.sel = some i) (hr : nextTurn u ≠ some .reset) :
    StillPending s (advance u) ∨ HoldsResult i s (advance u) ∧ (advance u).done = true := by
  have hpop : StillPending s (popTurn u) := by
    obtain ⟨hb, hp, hh⟩ := h
    exact ⟨hb, hp, by simpa using hh⟩
  obtain hnext | ⟨r, hfault⟩ | hrefused := advance_cases u
  · obtain ⟨hn, -⟩ | ⟨-, -, j, hj, he⟩ | ⟨r, v, a, -, ht⟩ | ⟨-, -, -, a, rs, ht⟩ := step_next hnext
    · exact absurd hn hr
    · obtain ⟨hb, hp, hh⟩ := hpop
      obtain rfl : i = j := by
        rw [popTurn_pending] at hp
        rw [hp, hi] at hj
        exact Option.some.inj hj
      obtain ⟨hbusy, hdone⟩ := exec_busy_done he
      exact .inr ⟨⟨hbusy, exec_dout_of_halves_eq hh he⟩, hdone⟩
    · obtain ⟨hb, hp, hh⟩ := hpop.writeReg r v
      rw [ht]
      exact .inl ⟨hb, hp, by simpa using hh⟩
    · obtain ⟨hb, hp, hh⟩ := hpop
      rw [ht]
      exact .inl ⟨hb, hp, by simpa using hh⟩
  · obtain ⟨hb, hp, hh⟩ := h
    rw [hfault]
    exact .inl ⟨hb, hp, by simpa using hh⟩
  · rw [hrefused]
    exact .inl hpop

/-- A result stays until a reset or the next launch (O17, O21). -/
theorem HoldsResult.advance {s u : State} {i : Instr} (h : HoldsResult i s u) (hr : nextTurn u ≠ some .reset)
    (hl : ¬∃ w, nextWrite u = some (0x18, w) ∧ legal w = true) : HoldsResult i s (advance u) := by
  obtain hnext | ⟨r, hfault⟩ | hrefused := advance_cases u
  · obtain ⟨hb, t, he, hhi, hlo⟩ := h
    obtain ⟨hlaunch, -⟩ := busyChangesOnlyAsStated u _ hnext
    have hidle : (Machine.advance u).busy = false := Bool.eq_false_iff.mpr (mt (hlaunch hb).mp hl)
    obtain ⟨hn, -⟩ | ⟨-, hb', -⟩ | ⟨hhi', hlo'⟩ := doutChangesOnlyByCompletion u _ hnext
    · exact absurd hn hr
    · simp [hb] at hb'
    · exact ⟨hidle, t, he, hhi'.trans hhi, hlo'.trans hlo⟩
  · rw [hfault]
    exact h
  · rw [hrefused]
    exact h

/-! ### The poll -/

section
variable {s : State} {i : Instr} {n : Nat} (hb : s.busy = true)
  (hi : decodeFields s.pending.op s.pending.sel = some i)
  (hq : ∀ m, m < n → nextTurn (after m s) ≠ some .reset ∧
    ¬((after m s).busy = false ∧ ∃ w, nextWrite (after m s) = some (0x18, w) ∧ legal w = true))
include hb hi hq

theorem after_stillPending_or_holdsResult : StillPending s (after n s) ∨ HoldsResult i s (after n s) := by
  induction n with
  | zero => exact .inl ⟨hb, rfl, fun _ => rfl⟩
  | succ n ih =>
    obtain ⟨hr, hl⟩ := hq n (Nat.lt_succ_self n)
    rw [after_succ]
    obtain hp | hd := ih fun m hm => hq m (Nat.lt_succ_of_lt hm)
    · exact (hp.advance hi hr).imp_right And.left
    · have ⟨hidle, _⟩ := hd
      exact .inr (hd.advance hr fun hw => hl ⟨hidle, hw⟩)

/-- The step at which `BUSY` falls is the completion, which sets `DONE` (R80). -/
theorem done_after_of_busy_until (hbusy : ∀ m, m < n → (after m s).busy = true) (hidle : (after n s).busy = false) :
    (after n s).done = true := by
  cases n with
  | zero => exact absurd hb (Bool.eq_false_iff.mp hidle)
  | succ n =>
    obtain ⟨hr, -⟩ := hq n (Nat.lt_succ_self n)
    have hp : StillPending s (after n s) := by
      obtain hp | ⟨hdone, -⟩ := after_stillPending_or_holdsResult hb hi fun m hm => hq m (Nat.lt_succ_of_lt hm)
      · exact hp
      · exact absurd (hbusy n (Nat.lt_succ_self n)) (Bool.eq_false_iff.mp hdone)
    rw [after_succ] at hidle ⊢
    obtain ⟨hb', -⟩ | ⟨-, hdone⟩ := hp.advance hi hr
    · exact absurd hb' (Bool.eq_false_iff.mp hidle)
    · exact hdone

end

/-- A read of `STATUS` brings its word and no other. -/
theorem eq_statusWord_of_read {u : State} {w : Word}
    (h : accessOp (.read 0x1C 4) u = .next { u with reads := u.reads ++ [w] }) : w = statusWord u := by
  rw [accessOp_read_status] at h
  have hreads : u.reads ++ [statusWord u] = u.reads ++ [w] := congrArg State.reads (Host.Outcome.next.inj h)
  exact (List.singleton_inj.mp (List.append_cancel_left hreads)).symm

/-- Settles O54: the core is either still on the launched command, which the read's `BUSY = 0` denies, or holds its
result (`after_stillPending_or_holdsResult`). -/
theorem pollingSeesTheLaunchedResult : Obligations.PollingSeesTheLaunchedResult := by
  intro s i n _ hb hi hq u w hread hw
  obtain rfl := eq_statusWord_of_read hread
  have hidle : u.busy = false := (getLsbD_statusWord u 0).symm.trans hw
  constructor
  · obtain ⟨hbusy, -⟩ | ⟨-, hresult⟩ := after_stillPending_or_holdsResult hb hi hq
    · exact absurd hbusy (Bool.eq_false_iff.mp hidle)
    · exact hresult
  · intro hbusy
    exact (getLsbD_statusWord u 1).trans (done_after_of_busy_until hb hi hq hbusy hidle)

end Sys2Proof.Machine
end

section
/-! PROOF. O56: the host statements that access the window (spec/30_encoding.md R77; spec/20_memory.md R41). -/

namespace Sys2Proof.Machine

/-! ### Host variables -/

theorem lookupVar_insertVar (z x : Var) (v : Word) (vs : List (Var × Word)) :
    lookupVar z (insertVar x v vs) = if z = x then v else lookupVar z vs := by
  induction vs with
  | nil => simp [insertVar, lookupVar]
  | cons p vs ih =>
    obtain ⟨y, u⟩ := p
    simp only [insertVar]
    split
    case isTrue => simp [lookupVar]
    case isFalse =>
      split
      case isTrue hxy =>
        subst hxy
        by_cases hz : z = x <;> simp [lookupVar, hz]
      case isFalse hxy =>
        by_cases hz : z = y
        · simp [lookupVar, hz, Ne.symm hxy]
        · simp [lookupVar, hz, ih]

theorem getVar_setVar_self (x : Var) (v : Word) (s : State) : getVar x (setVar x v s) = v :=
  (lookupVar_insertVar x x v s.host.vars).trans (if_pos rfl)

theorem getVar_setVar_of_ne {x z : Var} (hz : z ≠ x) (v : Word) (s : State) :
    getVar z (setVar x v s) = getVar z s :=
  (lookupVar_insertVar z x v s.host.vars).trans (if_neg hz)

@[simp] theorem getVar_nextLine (x : Var) (s : State) : getVar x (nextLine s) = getVar x s := rfl
@[simp] theorem getVar_logRead (x : Var) (v : Word) (s : State) : getVar x (logRead v s) = getVar x s := rfl

/-! ### `wr` and `rd` -/

theorem execStmt_wr (r : Reg) (v : Word) (s : State) : execStmt (.wr r v) s = .next (nextLine (writeReg r v s)) := by
  simp only [execStmt, stmtWrite, memWrite_regOffset]

theorem execStmt_rd_of_ok {r : Reg} {s : State} {w : Word} (h : memRead (regOffset r) 4 s = .ok w) (x : Var) :
    execStmt (.rd x r) s = .next (nextLine (setVar x w (logRead w s))) := by
  simp only [execStmt, stmtRead, h]

theorem execStmt_rd_of_error {r : Reg} {s : State} {f : Fault} (h : memRead (regOffset r) 4 s = .error f) (x : Var) :
    execStmt (.rd x r) s = .fault f := by
  simp only [execStmt, stmtRead, h]

/-- Settles O56: a write leaves the host where it was (`writeReg_others`), and a read's word is one variable's. -/
theorem hostAccessStatementsAreAccesses : Obligations.HostAccessStatementsAreAccesses := by
  refine ⟨⟨rfl, rfl, rfl, rfl, rfl, rfl, rfl, rfl⟩, fun s r x v => ⟨?wr, rfl, fun w hw => ?rd, fun f hf => ?fault⟩⟩
  case wr =>
    obtain ⟨hhost, -⟩ := writeReg_others r v s
    refine ⟨_, accessOp_write_regOffset r v s, ?_⟩
    rw [execStmt_wr, ← hhost]
    rfl
  case rd =>
    refine ⟨_, execStmt_rd_of_ok hw x, ?_, fun z hz => ?_, rfl, rfl, rfl, rfl⟩
    · rw [getVar_nextLine, getVar_setVar_self]
    · rw [getVar_nextLine, getVar_setVar_of_ne hz, getVar_logRead]
  case fault => exact execStmt_rd_of_error hf x

end Sys2Proof.Machine
end

section
/-! PROOF. O27, O55, O57: the host's variables and jumps (spec/30_encoding.md R77). -/

namespace Sys2Proof.Machine

/-! ### The variables' canonical form -/

theorem mem_insertVar {x : Var} {v : Word} {vs : List (Var × Word)} {p : Var × Word} (h : p ∈ insertVar x v vs) :
    p = (x, v) ∨ p ∈ vs := by
  induction vs with
  | nil => exact .inl (List.mem_singleton.mp h)
  | cons q vs ih =>
    obtain ⟨y, u⟩ := q
    simp only [insertVar] at h
    split at h
    · exact List.mem_cons.mp h
    · split at h
      · exact (List.mem_cons.mp h).imp_right (List.mem_cons_of_mem _)
      · obtain rfl | h := List.mem_cons.mp h
        · exact .inr List.mem_cons_self
        · exact (ih h).imp_right (List.mem_cons_of_mem _)

theorem varsSorted_insertVar (x : Var) (v : Word) {vs : List (Var × Word)} (h : varsSorted vs) :
    varsSorted (insertVar x v vs) := by
  induction vs with
  | nil => exact List.pairwise_singleton _ _
  | cons q vs ih =>
    obtain ⟨y, u⟩ := q
    obtain ⟨hy, hvs⟩ := List.pairwise_cons.mp h
    simp only [insertVar]
    split
    case isTrue hlt =>
      refine List.pairwise_cons.mpr ⟨fun p hp => ?_, h⟩
      obtain rfl | hp := List.mem_cons.mp hp
      · exact hlt
      · exact Nat.lt_trans hlt (hy p hp)
    case isFalse hnlt =>
      split
      case isTrue heq =>
        subst heq
        exact List.pairwise_cons.mpr ⟨hy, hvs⟩
      case isFalse hne =>
        refine List.pairwise_cons.mpr ⟨fun p hp => ?_, ih hvs⟩
        obtain rfl | hp := mem_insertVar hp
        · exact Nat.lt_of_le_of_ne (Nat.not_lt.mp hnlt) (Ne.symm hne)
        · exact hy p hp

/-- A statement leaves the variables alone or sets one of them. -/
theorem execStmt_next_vars {st : Stmt} {s t : State} (h : execStmt st s = .next t) :
    t.host.vars = s.host.vars ∨ ∃ x v, t.host.vars = insertVar x v s.host.vars := by
  cases st with
  | wr r _ | wrVar r _ =>
    simp only [execStmt, stmtWrite, memWrite_regOffset] at h
    cases h
    obtain ⟨hhost, -⟩ := writeReg_others r _ s
    have hvars := congrArg HostAgent.vars hhost
    exact .inl hvars
  | rd x r =>
    simp only [execStmt, stmtRead] at h
    split at h
    · cases h
      exact .inr ⟨_, _, rfl⟩
    · cases h
  | jb x b l | jnb x b l | jne x v l =>
    obtain ⟨n, rfl⟩ := jumpIf_next h
    exact .inl rfl
  | set x v | xor x y | add x v =>
    cases h
    exact .inr ⟨_, _, rfl⟩
  | halt =>
    cases h
    exact .inl rfl

theorem accessOp_next_host {op : HostOp} {s t : State} (h : accessOp op s = .next t) : t.host = s.host := by
  cases op with
  | read off width =>
    simp only [accessOp] at h
    split at h
    · cases h
      rfl
    · cases h
  | write off width v =>
    simp only [accessOp] at h
    split at h
    · rename_i t' ht
      cases h
      obtain ⟨-, r, -, rfl⟩ := memWrite_ok ht
      exact (writeReg_others r v s).left
    · cases h
  | other => cases h

theorem coreStep_next_host {s t : State} (h : coreStep s = .next t) : t.host = s.host := by
  unfold coreStep at h
  split at h
  · split at h
    · obtain ⟨-, -, -, -, -, -, -, -, hhost, -⟩ := completionFrame _ _ _ h
      exact hhost
    · cases h
  · cases h
    rfl

/-- Every turn but the host's own leaves the host agent alone. -/
theorem runTurn_next_host {tn : Turn} (hp : tn ≠ .program) {s t : State} (h : runTurn tn s = .next t) :
    t.host = s.host := by
  cases tn with
  | program => exact absurd rfl hp
  | access op => exact accessOp_next_host h
  | core => exact coreStep_next_host h
  | reset =>
    cases h
    rfl

/-- A step that answers is the turn in hand, or the empty step of a machine with nothing to do. -/
theorem step_next_turn {s t : State} (h : step s = .next t) :
    t = s ∨ ∃ tn, nextTurn s = some tn ∧ runTurn tn (popTurn s) = .next t := by
  unfold step takeTurn at h
  split at h
  · exact .inr ⟨_, ‹_›, h⟩
  · cases h
  · exact .inr ⟨_, ‹_›, h⟩
  · cases h
    exact .inl rfl

/-- Settles O27: only the host's own turn touches its variables (`runTurn_next_host`), and it at most sets one
(`execStmt_next_vars`), which keeps their order (`varsSorted_insertVar`). -/
theorem everyStepKeepsVariablesSorted : Obligations.EveryStepKeepsVariablesSorted := by
  intro s t hsorted hstep
  obtain rfl | ⟨tn, -, hturn⟩ := step_next_turn hstep
  · exact hsorted
  by_cases hp : tn = .program
  · subst hp
    simp only [runTurn, hostStep] at hturn
    split at hturn
    · obtain hvars | ⟨x, v, hvars⟩ := execStmt_next_vars hturn
      · rwa [hvars]
      · rw [hvars]
        exact varsSorted_insertVar x v hsorted
    · cases hturn
      exact hsorted
  · rwa [runTurn_next_host hp hturn]

/-! ### `set`, `xor` and `add` -/

/-- Settles O55: each is `setVar` of its value and a move on, and `setVar` is one variable's (`getVar_setVar_of_ne`). -/
theorem hostLocalStatementsWriteOneVariable : Obligations.HostLocalStatementsWriteOneVariable := by
  intro s x y v p hp
  have hexec : execStmt p.1 s = .next (nextLine (setVar x p.2 s)) := by
    simp only [List.mem_cons, List.not_mem_nil, or_false] at hp
    rcases hp with rfl | rfl | rfl <;> rfl
  refine ⟨_, hexec, ?own, fun z hz => ?other, rfl, rfl, rfl, rfl⟩
  case own => rw [getVar_nextLine, getVar_setVar_self]
  case other => rw [getVar_nextLine, getVar_setVar_of_ne hz]

/-! ### Jumps -/

/-- `findLabel` is the library's search, counted from `n`. -/
theorem findLabel_eq_findIdx? (l : Label) (p : List Line) (n : Nat) :
    findLabel l p n = (p.findIdx? (·.labels.contains l)).map (n + ·) := by
  induction p generalizing n with
  | nil => rfl
  | cons ln p ih =>
    rw [findLabel, List.findIdx?_cons, ih]
    split
    · rfl
    · rw [Option.map_map]
      congr 1
      funext k
      exact Nat.add_right_comm n 1 k

theorem findLabel_of_unique {l : Label} {p : List Line} {n : Nat}
    (h : ∀ m : Nat, (∃ ln : Line, p[m]? = some ln ∧ l ∈ ln.labels) ↔ m = n) : findLabel l p 0 = some n := by
  obtain ⟨ln, hln, hl⟩ := (h n).mpr rfl
  obtain ⟨hn, rfl⟩ := List.getElem?_eq_some_iff.mp hln
  have hfind : p.findIdx? (·.labels.contains l) = some n := by
    refine List.findIdx?_eq_some_iff_getElem.mpr ⟨hn, List.contains_iff_mem.mpr hl, fun m hm hcontains => ?_⟩
    have := (h m).mp ⟨_, List.getElem?_eq_getElem (by omega), List.contains_iff_mem.mp hcontains⟩
    omega
  rw [findLabel_eq_findIdx?, hfind, Option.map_some, Nat.zero_add]

theorem findLabel_of_missing {l : Label} {p : List Line} (h : ∀ ln ∈ p, l ∉ ln.labels) (n : Nat) :
    findLabel l p n = none := by
  have hfind : p.findIdx? (·.labels.contains l) = none :=
    List.findIdx?_eq_none_iff.mpr fun ln hln => by simpa using h ln hln
  rw [findLabel_eq_findIdx?, hfind, Option.map_none]

/-- Settles O57: each jump is `jumpIf` of its condition, and `findLabel` finds the one line that a label names
(`findLabel_of_unique`). -/
theorem hostJumpsFollowTheirCondition : Obligations.HostJumpsFollowTheirCondition := by
  refine fun s => ⟨rfl, fun x bit v l _ p hp => ?_⟩
  have hexec : execStmt p.1 s = jumpIf p.2 l s := by
    simp only [List.mem_cons, List.not_mem_nil, or_false] at hp
    rcases hp with rfl | rfl | rfl
    · rfl
    · rfl
    · rw [decide_not, ← beq_eq_decide]
      rfl
  rw [hexec]
  refine ⟨fun hc => ?moves, fun hc n hn => ?jumps, fun hc hmissing => ?refused⟩ <;> rw [hc]
  case moves => rfl
  case jumps =>
    rw [jumpIf, if_pos rfl, findLabel_of_unique hn]
    rfl
  case refused => rw [jumpIf, if_pos rfl, findLabel_of_missing hmissing]

end Sys2Proof.Machine
end

section
/-! PROOF. O1 to O4: the decoder and the encoder agree, and the words that decode are R73's (spec/30_encoding.md R70 to
R74, R78). Both directions go by the fields: those of a command name it (`decodeFields_op_sel`), and fields that name a
command are that command's (`op_sel_of_decodeFields`). -/

namespace Sys2Proof

/-! ### Decoding inverts encoding, and encoding inverts decoding -/

/-- Settles O1: a command's word has no other bits than its fields, and its fields name it (`decodeFields_op_sel`). -/
theorem decodeOfEncodeIsTheCommand : Obligations.DecodeOfEncodeIsTheCommand :=
  fun i hi => (decode_encode_eq i).trans (decodeFields_op_sel hi)

/-- Settles O4: each of R78's words is its command's encoding, and decodes to it (`decodeOfEncodeIsTheCommand`). -/
theorem mnemonicWordsDecode : Obligations.MnemonicWordsDecode :=
  have h := decodeOfEncodeIsTheCommand
  ⟨h .nop rfl, h .enc rfl, h .dec rfl, h .permIP rfl, h .permFP rfl, h .permPC1 rfl, h .permPC2 rfl, h .permE rfl,
    h .permP rfl, h (.sbox 1) rfl, h (.sbox 8) rfl, h (.rnd 1) rfl, h (.rnd 16) rfl, h (.rkey 1) rfl, h (.rkey 16) rfl,
    h (.kscd 1) rfl, h (.kscd 16) rfl, h .parity rfl⟩

/-- Fields that name a command are the fields of that command (R71, R72). -/
theorem op_sel_of_decodeFields {op sel : BitVec 4} {i : Instr} (h : decodeFields op sel = some i) :
    i.op = op ∧ i.sel = sel := by
  unfold decodeFields at h
  repeat' split at h
  all_goals cases h
  all_goals refine ⟨BitVec.eq_of_toNat_eq (Eq.symm ‹op.toNat = _›), ?_⟩
  -- NOP, ENC, DEC and the six PERM have a fixed `SEL`, then come the four families with an operand, then PARITY.
  iterate 9 exact BitVec.eq_of_toNat_eq (Eq.symm ‹sel.toNat = _›)
  iterate 4 exact (BitVec.ofNat_toNat 4 sel).trans (BitVec.setWidth_eq sel)
  exact BitVec.eq_of_toNat_eq (Eq.symm ‹sel.toNat = _›)

/-- Settles O2: the fields of a word that decodes are its command's (`op_sel_of_decodeFields`), and they make the
word. -/
theorem decodedWordIsTheCommandsWord : Obligations.DecodedWordIsTheCommandsWord := by
  intro w i h
  unfold decode at h
  split at h
  case isTrue hres =>
    obtain ⟨hop, hsel⟩ := op_sel_of_decodeFields h
    refine ⟨wellFormed_of_decodeFields h, word_ext ?_ ?_ ?_⟩
    · rw [resField_encode, hres]
    · rw [opField_encode, hop]
    · rw [selField_encode, hsel]
  case isFalse => cases h

/-! ### The legal words -/

theorem legal_iff_decode_isSome (w : Word) : legal w = true ↔ (decode w).isSome = true := by
  constructor
  case mp =>
    intro h
    have hres : resField w = 0#24 := by
      rw [legal, Bool.and_eq_true, beq_iff_eq] at h
      exact h.left
    rw [decode, if_pos hres]
    exact Machine.decodeFields_isSome_of_legal h
  case mpr =>
    intro h
    obtain ⟨i, hi⟩ := Option.isSome_iff_exists.mp h
    obtain ⟨hwf, rfl⟩ := decodedWordIsTheCommandsWord w i hi
    exact legal_encode hwf

/-- R73 as a proposition about the fields. -/
theorem legal_iff_fields (w : Word) : legal w = true ↔
    resField w = 0#24 ∧
      ((opField w = 0x0#4 ∧ selField w = 0#4) ∨ (opField w = 0x1#4 ∧ selField w = 0#4) ∨
        (opField w = 0x2#4 ∧ selField w = 0#4) ∨ (opField w = 0x3#4 ∧ (selField w).toNat ≤ 5) ∨
        (opField w = 0x4#4 ∧ (selField w).toNat ≤ 7) ∨ opField w = 0x5#4 ∨ opField w = 0x6#4 ∨ opField w = 0x7#4 ∨
        (opField w = 0x8#4 ∧ selField w = 0#4)) := by
  simp only [legal, Bool.and_eq_true, Bool.or_eq_true, beq_iff_eq, decide_eq_true_eq, or_assoc]
  rfl

/-- The sixty-six legal words (R73). -/
def legalWords : List Nat :=
  [0x00, 0x10, 0x20] ++ List.range' 0x30 6 ++ List.range' 0x40 8 ++ List.range' 0x50 48 ++ [0x80]

theorem mem_legalWords {n : Nat} : n ∈ legalWords ↔
    n = 0x00 ∨ n = 0x10 ∨ n = 0x20 ∨ (0x30 ≤ n ∧ n < 0x36) ∨ (0x40 ≤ n ∧ n < 0x48) ∨ (0x50 ≤ n ∧ n < 0x80) ∨
      n = 0x80 := by
  delta legalWords
  simp [List.mem_range'_1]

/-! A word below 256 is two digits, and each disjunct of R73 is an interval of such numbers. -/

section
variable {o s : Nat} (hs : s < 16)
include hs

theorem digits_eq_iff {c : Nat} : 16 * o + s = 16 * c ↔ o = c ∧ s = 0 := by omega

theorem digits_mem_row_iff {c k : Nat} (hk : k < 16) :
    16 * c ≤ 16 * o + s ∧ 16 * o + s < 16 * c + (k + 1) ↔ o = c ∧ s ≤ k := by omega

theorem digits_mem_rounds_iff : 0x50 ≤ 16 * o + s ∧ 16 * o + s < 0x80 ↔ o = 5 ∨ o = 6 ∨ o = 7 := by omega

theorem digits_mem_legalWords_iff : 16 * o + s ∈ legalWords ↔
    (o = 0 ∧ s = 0) ∨ (o = 1 ∧ s = 0) ∨ (o = 2 ∧ s = 0) ∨ (o = 3 ∧ s ≤ 5) ∨ (o = 4 ∧ s ≤ 7) ∨ o = 5 ∨ o = 6 ∨ o = 7 ∨
      (o = 8 ∧ s = 0) := by
  rw [mem_legalWords]
  refine or_congr (digits_eq_iff hs (c := 0)) (or_congr (digits_eq_iff hs (c := 1)) (or_congr
    (digits_eq_iff hs (c := 2)) (or_congr (digits_mem_row_iff hs (c := 3) (k := 5) (by decide)) (or_congr
    (digits_mem_row_iff hs (c := 4) (k := 7) (by decide)) ?_))))
  rw [digits_mem_rounds_iff hs, or_assoc, or_assoc]
  exact or_congr_right (or_congr_right (or_congr_right (digits_eq_iff hs (c := 8))))

end

/-- A range starts above everything before it. -/
theorem nodup_append_range' {xs : List Nat} {n k m : Nat} (h : xs.Nodup ∧ ∀ a ∈ xs, a < n) (hm : n + k ≤ m) :
    (xs ++ List.range' n k).Nodup ∧ ∀ a ∈ xs ++ List.range' n k, a < m := by
  obtain ⟨hxs, hlt⟩ := h
  constructor
  · refine List.nodup_append.mpr ⟨hxs, List.nodup_range', fun a ha b hb => ?_⟩
    exact Nat.ne_of_lt (Nat.lt_of_lt_of_le (hlt a ha) (List.mem_range'_1.mp hb).left)
  · intro a ha
    obtain ha | ha := List.mem_append.mp ha
    · exact Nat.lt_of_lt_of_le (hlt a ha) (Nat.le_of_add_right_le hm)
    · exact Nat.lt_of_lt_of_le (List.mem_range'_1.mp ha).right hm

theorem legalWords_nodup_lt : legalWords.Nodup ∧ ∀ a ∈ legalWords, a < 0x81 := by
  have hfixed : [0x00, 0x10, 0x20].Nodup ∧ ∀ a ∈ [0x00, 0x10, 0x20], a < 0x30 := by decide
  have hperm := nodup_append_range' hfixed (show 0x30 + 6 ≤ 0x40 by decide)
  have hsbox := nodup_append_range' hperm (show 0x40 + 8 ≤ 0x50 by decide)
  have hrounds := nodup_append_range' hsbox (show 0x50 + 48 ≤ 0x80 by decide)
  exact nodup_append_range' hrounds (show 0x80 + 1 ≤ 0x81 by decide)

theorem legal_iff_mem_legalWords (w : Word) : legal w = true ↔ w.toNat ∈ legalWords := by
  have hw := toNat_eq_fields w
  rw [legal_iff_fields]
  simp only [← BitVec.toNat_inj, BitVec.toNat_ofNat]
  by_cases hres : (resField w).toNat = 0
  · rw [hres, Nat.mul_zero, Nat.zero_add] at hw
    rw [hw, digits_mem_legalWords_iff (selField w).isLt]
    exact and_iff_right hres
  · refine iff_of_false (fun h => hres h.left) (fun h => ?_)
    obtain ⟨-, hlt⟩ := legalWords_nodup_lt
    have := hlt _ h
    omega

/-- Settles O3: `legal` is R73's formula over the fields (`legal_iff_fields`), its interval on each `OP`
(`legal_iff_mem_legalWords`), and what the decoder accepts (`legal_iff_decode_isSome`). -/
theorem legalWordsAreTheSixtySix : Obligations.LegalWordsAreTheSixtySix := by
  obtain ⟨hnodup, -⟩ := legalWords_nodup_lt
  exact ⟨rfl, hnodup, fun w => ⟨legal_iff_mem_legalWords w, legal_iff_fields w, legal_iff_decode_isSome w⟩⟩

end Sys2Proof
end

section
/-! PROOF. O29, O37, O38: which completions fault, and what NOP and the PERM commands complete with
(spec/30_encoding.md R76, R80; spec/40_permutation.md R101, R102; spec/43_driver.md R168). -/

namespace Sys2Proof.Machine

/-! ### Faults and completions -/

/-- Settles O38: R76's list is `consumed`, and it is the marks on that list that decide (`exec_of_unwritten`,
`exists_exec_next`). -/
theorem commandFaultsExactlyOnUnwrittenOperands : Obligations.CommandFaultsExactlyOnUnwrittenOperands := by
  intro s i hs htable
  obtain rfl : hs = consumed i := by
    rcases htable with ⟨rfl, rfl⟩ | ⟨rfl | rfl | ⟨r, rfl⟩, rfl⟩ | ⟨rfl | rfl | rfl | rfl | rfl, rfl⟩ |
      ⟨rfl | rfl | ⟨j, rfl⟩, rfl⟩ | ⟨⟨r, rfl | rfl⟩, rfl⟩ <;> rfl
  refine ⟨fun hi => ⟨fun hunwritten => ?fault, fun hwritten => ?completes⟩, fun hi => exec_illFormed hi s⟩
  case fault =>
    obtain ⟨x, hx, hmark⟩ := hunwritten
    exact exec_of_unwritten hi (List.all_eq_false.mpr ⟨x, hx, Bool.eq_false_iff.mp hmark⟩)
  case completes =>
    obtain ⟨t, ht⟩ := exists_exec_next hi (List.all_eq_true.mpr hwritten)
    obtain ⟨hbusy, hdone⟩ := exec_busy_done ht
    obtain ⟨-, -, -, -, herr, herrcode, -⟩ := completionFrame i s t ht
    exact ⟨t, ht, hbusy, hdone, herr, herrcode⟩

/-- Settles O37: NOP's meaning is the completion's flags and nothing else. -/
theorem nopCompletesAndWritesNothing : Obligations.NopCompletesAndWritesNothing := fun _ => rfl

/-! ### PERM -/

/-- R90, R101: a position of the right-aligned gather is the table's position of the right-aligned input. -/
theorem getLsbD_gather_setWidth {n m : Nat} {T : List Nat} (hT : T.length = m) (hr : tableInRange n T = true)
    (hm : m ≤ 64) (din : Block) {k : Nat} (h1 : 1 ≤ k) (hk : k ≤ m) :
    ((gather m T (din.setWidth n)).setWidth 64).getLsbD (m - k) = din.getLsbD (n - T.getD (k - 1) 0) := by
  obtain ⟨hlow, hhigh⟩ := tableInRange_getD hr (k := k - 1) (by omega)
  have hgather := gather_desBit (din.setWidth n) hT h1 hk
  simp only [desBit] at hgather
  rw [BitVec.getLsbD_setWidth, hgather, BitVec.getLsbD_setWidth, decide_eq_true (by omega), decide_eq_true (by omega),
    Bool.true_and, Bool.true_and]

theorem perm_completes {i : Instr} {hs : List HalfId} {n m : Nat} {T : List Nat} {s : State}
    (hexec : exec i s = completeWith hs (fun _ din => permResult n m T din) s) (hT : T.length = m)
    (hr : tableInRange n T = true) (hm : m ≤ 64) (hw : ∀ h ∈ hs, (s.half h).written = true) :
    ∃ b : Block, exec i s = .next (completedWith b s) ∧
      (∀ k, 1 ≤ k → k ≤ m → b.getLsbD (m - k) = s.din.getLsbD (n - T.getD (k - 1) 0)) ∧
      ∀ j, m ≤ j → b.getLsbD j = false := by
  rw [hexec]
  refine ⟨_, completeWith_written (List.all_eq_true.mpr hw) (permResult_of_inRange hr s.din), ?gathers, ?above⟩
  case gathers => exact fun k h1 hk => getLsbD_gather_setWidth hT hr hm s.din h1 hk
  case above =>
    intro j hj
    rw [BitVec.getLsbD_setWidth, BitVec.getLsbD_of_ge _ _ hj, Bool.and_false]

/-- Settles O29: each PERM is `completeWith` over its own table, and each of the six tables is in range. -/
theorem permCompletesWithTheGather : Obligations.PermCompletesWithTheGather := by
  intro p hp
  simp only [List.mem_cons, List.not_mem_nil, or_false] at hp
  rcases hp with rfl | rfl | rfl | rfl | rfl | rfl <;> intro s hw
  · exact perm_completes rfl tableIP_length tableIP_inRange (by decide) hw
  · exact perm_completes rfl tableFP_length tableFP_inRange (by decide) hw
  · exact perm_completes rfl tablePC1_length tablePC1_inRange (by decide) hw
  · exact perm_completes rfl tablePC2_length tablePC2_inRange (by decide) hw
  · exact perm_completes rfl tableE_length tableE_inRange (by decide) hw
  · exact perm_completes rfl tableP_length tableP_inRange (by decide) hw

end Sys2Proof.Machine
end

section
/-! PROOF. O40 to O43, O46: the permutation engine, and what the choice of the tables makes of it
(spec/40_permutation.md R90 to R100; spec/41_key_schedule.md R119). -/

namespace Sys2Proof.Machine

/-! ### The engine over any table -/

/-- R91's precondition, entry by entry. -/
theorem tableInRange_iff {n : Nat} {T : List Nat} : tableInRange n T = true ↔ ∀ k ∈ T, 1 ≤ k ∧ k ≤ n :=
  List.all_eq_true.trans (by simp)

/-- Settles O40: the gather by its positions, and the fault where R91's precondition fails. -/
theorem permuteGathersOrFaults : Obligations.PermuteGathersOrFaults := by
  intro n m T v hT
  refine ⟨fun hin => ⟨gather m T v, permute_of_inRange m v (tableInRange_iff.2 hin), ?gathers⟩, ?faults⟩
  case gathers => exact fun i h1 hm => gather_desBit v hT h1 hm
  case faults =>
    rintro ⟨k, hk, hout⟩
    have hbad : tableInRange n T = false := by
      refine Bool.eq_false_iff.mpr fun hin => ?_
      have := tableInRange_iff.1 hin k hk
      omega
    exact permute_of_not_inRange m v hbad

/-- A gather of a value whose positions all hold `b` holds `b` in every position (R100). -/
theorem gather_desBit_of_uniform {n m : Nat} {T : List Nat} {v : BitVec n} {b : Bool} (hT : T.length = m)
    (hr : tableInRange n T = true) (hv : ∀ k, 1 ≤ k → k ≤ n → desBit v k = b) {k : Nat} (h1 : 1 ≤ k) (hm : k ≤ m) :
    desBit (gather m T v) k = b := by
  obtain ⟨hlow, hhigh⟩ := tableInRange_getD hr (k := k - 1) (by omega)
  rw [gather_desBit v hT h1 hm, hv _ hlow hhigh]

/-- Settles O43: both are values whose positions all hold one bit. -/
theorem uniformInputsAreFixed : Obligations.UniformInputsAreFixed := by
  intro n m T hT hin
  have hr := tableInRange_iff.2 hin
  rw [permute_of_inRange m _ hr, permute_of_inRange m _ hr]
  refine ⟨congrArg Except.ok (eq_of_desBit_eq fun k h1 hm => ?zero),
    congrArg Except.ok (eq_of_desBit_eq fun k h1 hm => ?ones)⟩
  case zero => exact (gather_desBit_of_uniform hT hr (fun k _ _ => desBit_zero k) h1 hm).trans (desBit_zero k).symm
  case ones => exact (gather_desBit_of_uniform hT hr (fun _ => desBit_allOnes) h1 hm).trans (desBit_allOnes h1 hm).symm

/-! ### FP and IP (R99) -/

/-- `T[U[i]] = i` for every `i` in 1..n, all entries at once. -/
abbrev InvertsTable (n : Nat) (T U : List Nat) : Prop := U.map (fun k => T.getD (k - 1) 0) = List.range' 1 n

theorem tableFP_inverts_tableIP : InvertsTable 64 tableFP tableIP := by decide

theorem tableIP_inverts_tableFP : InvertsTable 64 tableIP tableFP := by decide

/-- An inverted table has no repeats. -/
theorem nodup_of_inverted {n : Nat} {T U : List Nat} (h : InvertsTable n T U) : U.Nodup :=
  List.Nodup.of_map _ (h ▸ List.nodup_range')

theorem getD_getD_of_inverts {n : Nat} {T U : List Nat} (h : InvertsTable n T U) {i : Nat} (hi : i < n) :
    T.getD (U.getD i 0 - 1) 0 = i + 1 := by
  have hU : i < U.length := by
    have hlen := congrArg List.length h
    rw [List.length_map, List.length_range'] at hlen
    omega
  have hentry := List.getElem_of_eq h (i := i) (by rwa [List.length_map])
  rw [List.getElem_map, List.getElem_range'] at hentry
  rw [List.getD_eq_getElem _ _ hU, hentry]
  omega

/-- Gathering by `T` and then by a `U` it inverts gives every position back. -/
theorem gather_gather_of_inverts {n m : Nat} {T U : List Nat} (hT : T.length = m) (hU : U.length = n)
    (hr : tableInRange m U = true) (h : InvertsTable n T U) (x : BitVec n) :
    gather n U (gather m T x) = x := by
  refine eq_of_desBit_eq fun k h1 hn => ?_
  obtain ⟨hlow, hhigh⟩ := tableInRange_getD hr (k := k - 1) (by omega)
  rw [gather_desBit _ hU h1 hn, gather_desBit _ hT hlow hhigh, getD_getD_of_inverts h (by omega),
    Nat.sub_add_cancel h1]

/-- Settles O42: both ways are one lemma over a table and its inverse. -/
theorem fpInvertsIp : Obligations.FpInvertsIp := by
  refine ⟨fun x => ⟨?fp_ip, ?ip_fp⟩, fun i h1 h64 => ?entry⟩
  case fp_ip => exact gather_gather_of_inverts tableIP_length tableFP_length tableFP_inRange tableIP_inverts_tableFP x
  case ip_fp => exact gather_gather_of_inverts tableFP_length tableIP_length tableIP_inRange tableFP_inverts_tableIP x
  case entry => rw [getD_getD_of_inverts tableFP_inverts_tableIP (i := i - 1) (by omega), Nat.sub_add_cancel h1]

/-! ### The six tables -/

/-- Settles O41: IP and FP have no repeats since each inverts the other. -/
theorem tablesAreInRange : Obligations.TablesAreInRange := by
  refine ⟨fun p hp => ?tables, nodup_of_inverted tableFP_inverts_tableIP,
    nodup_of_inverted tableIP_inverts_tableFP, by decide⟩
  case tables =>
    simp only [List.mem_cons, List.not_mem_nil, or_false] at hp
    rcases hp with rfl | rfl | rfl | rfl | rfl | rfl
    · exact ⟨tableIP_length, tableInRange_iff.1 tableIP_inRange⟩
    · exact ⟨tableFP_length, tableInRange_iff.1 tableFP_inRange⟩
    · exact ⟨tablePC1_length, tableInRange_iff.1 tablePC1_inRange⟩
    · exact ⟨tablePC2_length, tableInRange_iff.1 tablePC2_inRange⟩
    · exact ⟨tableE_length, tableInRange_iff.1 tableE_inRange⟩
    · exact ⟨tableP_length, tableInRange_iff.1 tableP_inRange⟩

/-! ### The parity positions (R94, R119) -/

/-- Two keys hold the same bit in every position but the eight parity positions 8, 16, …, 64. -/
def AgreeOffParity (k k' : Block) : Prop := ∀ p, 1 ≤ p → p ≤ 64 → p % 8 ≠ 0 → desBit k p = desBit k' p

/-- R110: the parity step keeps every position that is no parity position. -/
theorem agreeOffParity_parityFix (k : Block) : AgreeOffParity (parityFix k) k := by
  intro p h1 h64 hp
  have hbyte := congrArg (·.getLsbD ((64 - p) % 8 - 1)) (parityByte_spec (desByte k (7 - (64 - p) / 8))).1
  simp only [BitVec.getLsbD_extractLsb', show (64 - p) % 8 - 1 < 7 by omega, decide_true, Bool.true_and,
    show 1 + ((64 - p) % 8 - 1) = (64 - p) % 8 by omega] at hbyte
  rw [desBit, desBit, getLsbD_eq_desByte _ (by omega), desByte_parityFix k (by omega), hbyte,
    ← getLsbD_eq_desByte k (by omega)]

/-- R94: PC-1 names no parity position. -/
theorem tablePC1_no_parity : ∀ k ∈ tablePC1, k % 8 ≠ 0 := by decide

/-- A gather reads no position that its table does not name. -/
theorem gather_congr {n : Nat} (m : Nat) {T : List Nat} {v w : BitVec n} (h : ∀ k ∈ T, desBit v k = desBit w k) :
    gather m T v = gather m T w := by
  have hdigits : ∀ acc, gatherNat v T acc = gatherNat w T acc := by
    induction T with
    | nil => exact fun _ => rfl
    | cons k T ih =>
      intro acc
      rw [gatherNat, gatherNat, h k List.mem_cons_self, ih fun j hj => h j (List.mem_cons_of_mem k hj)]
  rw [gather, gather, hdigits]

/-- R119: the first pair, and so the schedule, reads no parity position. -/
theorem initialPair_eq_of_agreeOffParity {k k' : Block} (h : AgreeOffParity k k') : initialPair k = initialPair k' := by
  refine gather_congr 56 fun p hp => ?_
  obtain ⟨h1, h64⟩ := tableInRange_iff.1 tablePC1_inRange p hp
  have hnamed := tablePC1_no_parity p hp
  rw [agreeOffParity_parityFix k p h1 h64 hnamed, agreeOffParity_parityFix k' p h1 h64 hnamed, h p h1 h64 hnamed]

theorem keySchedule_eq_of_agreeOffParity {k k' : Block} (h : AgreeOffParity k k') : keySchedule k = keySchedule k' := by
  rw [keySchedule, keySchedule, keyPairs, keyPairs, initialPair_eq_of_agreeOffParity h]

/-- Settles O46: the key reaches the cipher by its schedule alone, and the schedule by PC-1 alone. -/
theorem parityBitsDoNotReachTheRoundKeys : Obligations.ParityBitsDoNotReachTheRoundKeys := by
  refine ⟨tablePC1_no_parity, fun k => keySchedule_eq_of_agreeOffParity (agreeOffParity_parityFix k), ?_⟩
  intro k k' hagree
  have hks : keySchedule k = keySchedule k' := keySchedule_eq_of_agreeOffParity hagree
  refine ⟨hks, fun b => ⟨?encrypt, ?decrypt⟩⟩
  case encrypt => rw [encryptBlock, encryptBlock, hks]
  case decrypt => rw [decryptBlock, decryptBlock, hks]

end Sys2Proof.Machine
end
